-- ==== Sys2Proof/Word.lean ====
section
/-! DEFINITION. The data types of the conv64 engine: the word, the ring element, the command descriptor (spec 10_state.md). -/

namespace Sys2Proof

/-- A base-ring value: a 64-bit pattern, arithmetic modulo 2^64 (R7, R33). -/
abbrev Word := BitVec 64

/-- A ring element, the ordered pair (a, b) that stands for a + b·ω (R7). Every pair is a valid element. -/
structure Elt where
  a : Word
  b : Word
  deriving DecidableEq, Repr, Inhabited

/-- One unit of KM: a command descriptor, the three words W0, W1, W2 (R16, R50). -/
structure Descriptor where
  w0 : Word
  w1 : Word
  w2 : Word
  deriving DecidableEq, Repr, Inhabited

end Sys2Proof
end

