-- ==== Sys2Proof/Syntax.lean ====
section
/-! DEFINITION. The fifteen commands of the engine (spec 30_encoding.md), one constructor per row of spec/opcode_table.json. -/

namespace Sys2Proof

/-- A command with the values of its used fields, in the order of the assembler syntax R59. A field is an unsigned
number (R51), so it is a natural number here; `Instr.wf` says that it fits its field. -/
inductive Instr where
  | nop
  | halt
  | eadd (xd xs0 xs1 len : Nat)
  | esub (xd xs0 xs1 len : Nat)
  | eneg (xd xs0 len : Nat)
  | emul (xd xs0 xs1 len : Nat)
  | econj (xd xs0 len : Nat)
  | eemb (xd cs0 len : Nat)
  | esc3 (xd xs0 len k : Nat)
  | twid (xd xs0 m t : Nat)
  | fft3 (xd r m : Nat)
  | ifft3 (xd r m : Nat)
  | mulmod (xd xs0 xs1 n : Nat)
  | cconv (cd cs0 cs1 n : Nat)
  | pmul (cd cs0 lenA cs1 lenB : Nat)
  deriving DecidableEq, Repr

/-- The rows of the opcode map R53, without operands. -/
inductive Op where
  | nop | halt | eadd | esub | eneg | emul | econj | eemb | esc3 | twid | fft3 | ifft3 | mulmod | cconv | pmul
  deriving DecidableEq, Repr

/-- The fields of a descriptor (R50), as the numbers their bits spell (R51). -/
structure Fields where
  opc : Nat
  k : Nat
  rsv : Nat
  n : Nat
  dst : Nat
  src0 : Nat
  src1 : Nat
  aux : Nat
  deriving DecidableEq, Repr

/-- Which fields a command uses: the columns of R56. -/
structure Uses where
  n : Bool
  k : Bool
  dst : Bool
  src0 : Bool
  src1 : Bool
  aux : Bool
  deriving DecidableEq, Repr

/-- The decoder's rejections, by name (R52). -/
inductive DecodeError where
  /-- `OPC` is not in the table of R53 (R54): the fetch step takes `F_OPCODE`. -/
  | badOpcode
  /-- `RSV` or a field the command does not use is nonzero (R55, R56): the fetch step takes `F_RESERVED`. -/
  | badReserved
  deriving DecidableEq, Repr

/-- The pseudo-instruction `ECPY xd, xs0, len` (R60). -/
def Instr.ecpy (xd xs0 len : Nat) : Instr := .esc3 xd xs0 len 0

end Sys2Proof
end

