-- ==== Sys2Proof/WellFormed.lean ====
section
/-! DEFINITION. Which terms of `Instr` have an encoding: every field value fits the field's width (spec 30_encoding.md R50, R51). -/

namespace Sys2Proof

/-- A number that fits a 32-bit address or length field (R5, R50). -/
def fits32 (v : Nat) : Bool := decide (v < 2 ^ 32)

/-- A number that fits the 8-bit field `K` (R50). -/
def fits8 (v : Nat) : Bool := decide (v < 2 ^ 8)

/-- Every operand of the command fits its field. -/
def Instr.wf : Instr → Bool
  | .nop => true
  | .halt => true
  | .eadd xd xs0 xs1 len => fits32 xd && fits32 xs0 && fits32 xs1 && fits32 len
  | .esub xd xs0 xs1 len => fits32 xd && fits32 xs0 && fits32 xs1 && fits32 len
  | .eneg xd xs0 len => fits32 xd && fits32 xs0 && fits32 len
  | .emul xd xs0 xs1 len => fits32 xd && fits32 xs0 && fits32 xs1 && fits32 len
  | .econj xd xs0 len => fits32 xd && fits32 xs0 && fits32 len
  | .eemb xd cs0 len => fits32 xd && fits32 cs0 && fits32 len
  | .esc3 xd xs0 len k => fits32 xd && fits32 xs0 && fits32 len && fits8 k
  | .twid xd xs0 m t => fits32 xd && fits32 xs0 && fits32 m && fits32 t
  | .fft3 xd r m => fits32 xd && fits32 r && fits32 m
  | .ifft3 xd r m => fits32 xd && fits32 r && fits32 m
  | .mulmod xd xs0 xs1 n => fits32 xd && fits32 xs0 && fits32 xs1 && fits32 n
  | .cconv cd cs0 cs1 n => fits32 cd && fits32 cs0 && fits32 cs1 && fits32 n
  | .pmul cd cs0 lenA cs1 lenB => fits32 cd && fits32 cs0 && fits32 lenA && fits32 cs1 && fits32 lenB

end Sys2Proof
end

