-- ==== Sys2Proof/Decode.lean ====
section
/-! DEFINITION. The decoder and the encoder of command descriptors (spec 30_encoding.md R50 to R58, opcode_table.json). -/

namespace Sys2Proof

/-- The fields of a descriptor, at the bit places of R50. -/
def Descriptor.fields (d : Descriptor) : Fields :=
  { opc := (d.w0.extractLsb' 0 8).toNat
    k := (d.w0.extractLsb' 8 8).toNat
    rsv := (d.w0.extractLsb' 16 16).toNat
    n := (d.w0.extractLsb' 32 32).toNat
    dst := (d.w1.extractLsb' 0 32).toNat
    src0 := (d.w1.extractLsb' 32 32).toNat
    src1 := (d.w2.extractLsb' 0 32).toNat
    aux := (d.w2.extractLsb' 32 32).toNat }

/-- The descriptor that holds the given fields, each cut to its width (R50). -/
def Fields.pack (f : Fields) : Descriptor :=
  { w0 := BitVec.ofNat 32 f.n ++ BitVec.ofNat 16 f.rsv ++ BitVec.ofNat 8 f.k ++ BitVec.ofNat 8 f.opc
    w1 := BitVec.ofNat 32 f.src0 ++ BitVec.ofNat 32 f.dst
    w2 := BitVec.ofNat 32 f.aux ++ BitVec.ofNat 32 f.src1 }

/-- The opcode of a command (R53). -/
def Op.code : Op → Nat
  | .nop => 0x00
  | .halt => 0x01
  | .eadd => 0x10
  | .esub => 0x11
  | .eneg => 0x12
  | .emul => 0x13
  | .econj => 0x14
  | .eemb => 0x15
  | .esc3 => 0x16
  | .twid => 0x20
  | .fft3 => 0x30
  | .ifft3 => 0x31
  | .mulmod => 0x40
  | .cconv => 0x50
  | .pmul => 0x51

/-- The command of an opcode (R53); every other value of `OPC` is illegal (R54). -/
def opOfCode (opc : Nat) : Option Op :=
  match opc with
  | 0x00 => some .nop
  | 0x01 => some .halt
  | 0x10 => some .eadd
  | 0x11 => some .esub
  | 0x12 => some .eneg
  | 0x13 => some .emul
  | 0x14 => some .econj
  | 0x15 => some .eemb
  | 0x16 => some .esc3
  | 0x20 => some .twid
  | 0x30 => some .fft3
  | 0x31 => some .ifft3
  | 0x40 => some .mulmod
  | 0x50 => some .cconv
  | 0x51 => some .pmul
  | _ => none

/-- The used fields of each command: the table of R56. -/
def Op.uses : Op → Uses
  | .nop => ⟨false, false, false, false, false, false⟩
  | .halt => ⟨false, false, false, false, false, false⟩
  | .eadd => { n := true, k := false, dst := true, src0 := true, src1 := true, aux := false }
  | .esub => { n := true, k := false, dst := true, src0 := true, src1 := true, aux := false }
  | .emul => { n := true, k := false, dst := true, src0 := true, src1 := true, aux := false }
  | .eneg => { n := true, k := false, dst := true, src0 := true, src1 := false, aux := false }
  | .econj => { n := true, k := false, dst := true, src0 := true, src1 := false, aux := false }
  | .eemb => { n := true, k := false, dst := true, src0 := true, src1 := false, aux := false }
  | .esc3 => { n := true, k := true, dst := true, src0 := true, src1 := false, aux := false }
  | .twid => { n := true, k := false, dst := true, src0 := true, src1 := false, aux := true }
  | .fft3 => { n := true, k := false, dst := true, src0 := false, src1 := false, aux := true }
  | .ifft3 => { n := true, k := false, dst := true, src0 := false, src1 := false, aux := true }
  | .mulmod => { n := true, k := false, dst := true, src0 := true, src1 := true, aux := false }
  | .cconv => { n := true, k := false, dst := true, src0 := true, src1 := true, aux := false }
  | .pmul => { n := true, k := false, dst := true, src0 := true, src1 := true, aux := true }

/-- `RSV` and every field the command does not use are zero (R55, R56). -/
def reservedClear (u : Uses) (f : Fields) : Bool :=
  f.rsv == 0 && (u.n || f.n == 0) && (u.k || f.k == 0) && (u.dst || f.dst == 0) && (u.src0 || f.src0 == 0) &&
    (u.src1 || f.src1 == 0) && (u.aux || f.aux == 0)

/-- The command whose operands stand in the given fields (R56, R59). -/
def Op.build (o : Op) (f : Fields) : Instr :=
  match o with
  | .nop => .nop
  | .halt => .halt
  | .eadd => .eadd f.dst f.src0 f.src1 f.n
  | .esub => .esub f.dst f.src0 f.src1 f.n
  | .eneg => .eneg f.dst f.src0 f.n
  | .emul => .emul f.dst f.src0 f.src1 f.n
  | .econj => .econj f.dst f.src0 f.n
  | .eemb => .eemb f.dst f.src0 f.n
  | .esc3 => .esc3 f.dst f.src0 f.n f.k
  | .twid => .twid f.dst f.src0 f.n f.aux
  | .fft3 => .fft3 f.dst f.n f.aux
  | .ifft3 => .ifft3 f.dst f.n f.aux
  | .mulmod => .mulmod f.dst f.src0 f.src1 f.n
  | .cconv => .cconv f.dst f.src0 f.src1 f.n
  | .pmul => .pmul f.dst f.src0 f.n f.src1 f.aux

/-- Decoding a descriptor in the order of R52: the opcode first, then the reserved and unused fields. Total. -/
def decode (d : Descriptor) : Except DecodeError Instr :=
  match opOfCode d.fields.opc with
  | none => .error .badOpcode
  | some o => if reservedClear o.uses d.fields then .ok (o.build d.fields) else .error .badReserved

/-- The row of the opcode map a command belongs to. -/
def Instr.op : Instr → Op
  | .nop => .nop
  | .halt => .halt
  | .eadd _ _ _ _ => .eadd
  | .esub _ _ _ _ => .esub
  | .eneg _ _ _ => .eneg
  | .emul _ _ _ _ => .emul
  | .econj _ _ _ => .econj
  | .eemb _ _ _ => .eemb
  | .esc3 _ _ _ _ => .esc3
  | .twid _ _ _ _ => .twid
  | .fft3 _ _ _ => .fft3
  | .ifft3 _ _ _ => .ifft3
  | .mulmod _ _ _ _ => .mulmod
  | .cconv _ _ _ _ => .cconv
  | .pmul _ _ _ _ _ => .pmul

/-- The fields that spell a command (R59: all others 0). -/
def Instr.fields (i : Instr) : Fields :=
  let base : Fields := { opc := i.op.code, k := 0, rsv := 0, n := 0, dst := 0, src0 := 0, src1 := 0, aux := 0 }
  match i with
  | .nop => base
  | .halt => base
  | .eadd xd xs0 xs1 len => { base with dst := xd, src0 := xs0, src1 := xs1, n := len }
  | .esub xd xs0 xs1 len => { base with dst := xd, src0 := xs0, src1 := xs1, n := len }
  | .eneg xd xs0 len => { base with dst := xd, src0 := xs0, n := len }
  | .emul xd xs0 xs1 len => { base with dst := xd, src0 := xs0, src1 := xs1, n := len }
  | .econj xd xs0 len => { base with dst := xd, src0 := xs0, n := len }
  | .eemb xd cs0 len => { base with dst := xd, src0 := cs0, n := len }
  | .esc3 xd xs0 len k => { base with dst := xd, src0 := xs0, n := len, k := k }
  | .twid xd xs0 m t => { base with dst := xd, src0 := xs0, n := m, aux := t }
  | .fft3 xd r m => { base with dst := xd, n := r, aux := m }
  | .ifft3 xd r m => { base with dst := xd, n := r, aux := m }
  | .mulmod xd xs0 xs1 n => { base with dst := xd, src0 := xs0, src1 := xs1, n := n }
  | .cconv cd cs0 cs1 n => { base with dst := cd, src0 := cs0, src1 := cs1, n := n }
  | .pmul cd cs0 lenA cs1 lenB => { base with dst := cd, src0 := cs0, n := lenA, src1 := cs1, aux := lenB }

/-- The encoder: the descriptor of a command (R50, R59). -/
def encode (i : Instr) : Descriptor := i.fields.pack

/-- The 192-bit number `{W2, W1, W0}` of the opcode table (R50) as a descriptor. -/
def descriptorOfNat (v : Nat) : Descriptor :=
  { w0 := BitVec.ofNat 64 v, w1 := BitVec.ofNat 64 (v / 2 ^ 64), w2 := BitVec.ofNat 64 (v / 2 ^ 128) }

/-- The instruction the decoder reads from the bits `w` of a row of `nbits` bits; bits above `nbits` are 0, and a number
with a bit beyond the one descriptor length of 192 bits (R58) is no instruction (log 21). -/
def decodeTableWord (nbits w : Nat) : Option Instr :=
  let v := w % 2 ^ nbits
  if v < 2 ^ 192 then
    match decode (descriptorOfNat v) with
    | .ok i => some i
    | .error _ => none
  else none

end Sys2Proof
end

