-- ==== Sys2Proof/Config.lean ====
section
/-! DEFINITION. What an implementation of the engine fixes (spec 00_scope.md R4, R5), and the free values that the spec calls ANY. -/

namespace Sys2Proof

/-- The implementation parameters of R4: the sizes of the three memories in units and the word addresses at which the
platform places the four host-visible regions. They are OPEN in the spec; the state carries them (log 1). -/
structure Config where
  xmSize : Nat
  cmSize : Nat
  kmSize : Nat
  csrBase : Nat
  kmBase : Nat
  cmBase : Nat
  xmBase : Nat
  deriving DecidableEq, Repr

/-- The constraints of R4 on the sizes. -/
def Config.wf (c : Config) : Bool :=
  decide (1 ≤ c.xmSize) && decide (c.xmSize ≤ 2 ^ 32) && decide (1 ≤ c.cmSize) && decide (c.cmSize ≤ 2 ^ 32) &&
    decide (1 ≤ c.kmSize) && decide (c.kmSize ≤ 2 ^ 32 - 1)

/-- DESIGN CHOICE (log 1): the instance that `State.reset` stands for. The spec gives no sizes. -/
def Config.default : Config :=
  { xmSize := 65536, cmSize := 65536, kmSize := 65535, csrBase := 0, kmBase := 0, cmBase := 0, xmBase := 0 }

/-- The largest length the multiplier does by schoolbook (R5, BASE_MAX). -/
def baseMax : Nat := 27

/-- ANY in XM (R32, R46): what the unit at `addr` holds after the draw `draw` since the reset numbered `epoch`.
A free value: nothing constrains it (log 3). -/
opaque Config.anyElt (epoch draw addr : Nat) : Elt

/-- ANY in CM (R32). A free value (log 3). -/
opaque Config.anyWord (epoch draw addr : Nat) : Word

/-- ANY in KM (R32). A free value (log 3). -/
opaque Config.anyDescriptor (epoch draw addr : Nat) : Descriptor

/-- ANY that the host port answers to a read that returns ANY (R45). A free value (log 12). -/
opaque Config.anyHostRead (epoch draw : Nat) : Word

end Sys2Proof
end

