-- ==== Sys2Proof/Machine/State.lean ====
section
/-! DEFINITION. The whole state of the engine as plain data and its value after reset (spec 10_state.md). -/

namespace Sys2Proof.Machine

/-- Why a step could stop without a next state. The spec gives none: R150 says that a step either completes the command
or takes a fault, and taking a fault (R170) is a next state here, so this type has no constructor (log 6). Safe. -/
inductive Fault where
  deriving DecidableEq, Repr

/-- Why a step could have no meaning. -/
inductive Refusal where
  /-- Raised by an arm of `exec` alone, for an instruction that has no meaning yet; no arm raises it now. Safe. -/
  | notModelled (mnemonic : String)
  deriving DecidableEq, Repr

/-- `STATUS.STATE` (R23). -/
inductive RunState where
  | idle
  | run
  | halted
  | fault
  deriving DecidableEq, Repr

/-- The seven faults of the engine (R160). -/
inductive FaultCode where
  | fetch
  | opcode
  | reserved
  | param
  | range
  | arena
  | overlap
  deriving DecidableEq, Repr

/-- What a memory unit holds: a value that was written, or ANY, drawn freely by the act numbered `draw` (R34, R46, log 3).
Draw 0 is the draw that reset makes for every unit. -/
inductive Held (α : Type) where
  | any (draw : Nat)
  | val (v : α)
  deriving DecidableEq, Repr

/-- A memory: unit addresses (R40) with what they hold, in the canonical form `Memory.wf`. An address that is not listed
holds `Held.any 0`, what reset left there (R32, log 4). -/
abbrev Memory (α : Type) := List (Nat × Held α)

/-- The state of the engine: every piece of 10_state.md, and three fields of the model's own (`cfg`, `epoch`, `draws`). -/
structure State where
  /-- The model's own: the implementation parameters of R4, changed by nothing (log 1). -/
  cfg : Config
  /-- `STATUS.STATE` (R23). -/
  status : RunState
  /-- `CP`, the command pointer (R24). -/
  cp : BitVec 32
  /-- `ARENA_BASE` (R25). -/
  arenaBase : BitVec 32
  /-- `ARENA_SIZE` (R26). -/
  arenaSize : BitVec 33
  /-- `FCODE` (R27). -/
  fcode : BitVec 4
  /-- `FCP` (R28). -/
  fcp : BitVec 32
  /-- `FINFO` (R29). -/
  finfo : BitVec 64
  /-- `IRQ_EN` (R30): bit 0 `EN_HALT`, bit 1 `EN_FAULT`. -/
  irqEn : BitVec 2
  /-- XM, the element memory (R14). -/
  xm : Memory Elt
  /-- CM, the coefficient memory (R15). -/
  cm : Memory Word
  /-- KM, the command memory (R16). -/
  km : Memory Descriptor
  /-- The model's own: how many resets came before the last one (log 3). -/
  epoch : Nat
  /-- The model's own: the number of the next draw of ANY (log 3). -/
  draws : Nat
  deriving DecidableEq, Repr

/-- The state after the first reset of an instance with parameters `c`: the table of R32. Nothing is listed in a memory, so
every unit holds ANY; `epoch` and `draws` are the model's own (DESIGN CHOICE, log 3). -/
def State.resetOf (c : Config) : State :=
  { cfg := c
    status := .idle
    cp := 0
    arenaBase := 0
    arenaSize := 0
    fcode := 0
    fcp := 0
    finfo := 0
    irqEn := 0
    xm := []
    cm := []
    km := []
    epoch := 0
    draws := 1 }

/-- The machine right after reset (R32, R191), for the instance `Config.default` (log 1). -/
def State.reset : State := State.resetOf Config.default

end Sys2Proof.Machine
end

