-- ==== Sys2Proof/Machine/Ops.lean ====
section
/-! DEFINITION. The named operations over the memories and the control registers: reading and writing units, ANY, advancing
the command pointer, taking a fault and returning from one, the frame every command shares, and the fetch. -/

namespace Sys2Proof.Machine

/-! ### One memory -/

/-- The content that an unlisted address has: ANY as reset drew it (R32, log 4). -/
def Held.isReset {α : Type} : Held α → Bool
  | .any 0 => true
  | _ => false

/-- The canonical form of a memory: addresses strictly rising and no entry equal to what an unlisted address reads as. -/
def Memory.wf {α : Type} : Memory α → Bool
  | [] => true
  | (a, h) :: rest => !h.isReset && rest.all (fun p => decide (a < p.1)) && Memory.wf rest

/-- What the unit at an address holds. -/
def Memory.get {α : Type} : Memory α → Nat → Held α
  | [], _ => .any 0
  | (b, g) :: rest, a => if a = b then g else Memory.get rest a

/-- Store `h` in the unit at an address and change no other unit (R42), keeping the canonical form. -/
def Memory.put {α : Type} : Memory α → Nat → Held α → Memory α
  | [], a, h => if h.isReset then [] else [(a, h)]
  | (b, g) :: rest, a, h =>
    if a < b then (if h.isReset then (b, g) :: rest else (a, h) :: (b, g) :: rest)
    else if a = b then (if h.isReset then rest else (a, h) :: rest)
    else (b, g) :: Memory.put rest a h

/-- `MemWrite`: the values `vs` into consecutive units from `base` (R34). -/
def Memory.writeFrom {α : Type} (m : Memory α) (base : Nat) : List α → Memory α
  | [] => m
  | v :: vs => Memory.writeFrom (m.put base (.val v)) (base + 1) vs

/-- ANY, by the act numbered `draw`, into the `n` units from `base`, each drawn separately (R46). -/
def Memory.clobber {α : Type} (m : Memory α) (base draw : Nat) : Nat → Memory α
  | 0 => m
  | n + 1 => (Memory.clobber m base draw n).put (base + n) (.any draw)

/-- Every listed address lies below `size`. -/
def Memory.within {α : Type} (m : Memory α) (size : Nat) : Bool := m.all fun p => decide (p.1 < size)

/-- Every ANY in the memory was drawn before the draw numbered `draws`. -/
def Memory.drawnBefore {α : Type} (m : Memory α) (draws : Nat) : Bool :=
  m.all fun p => match p.2 with
    | .any k => decide (k < draws)
    | .val _ => true

/-! ### Reading units: ANY resolves to a free value -/

/-- `XM[e]` (R34). A unit that holds ANY reads as a free value, the same at every read (R42, R49). -/
def State.xmAt (s : State) (e : Nat) : Elt :=
  match s.xm.get e with
  | .any k => Config.anyElt s.epoch k e
  | .val v => v

/-- `CM[w]` (R34, R49). -/
def State.cmAt (s : State) (w : Nat) : Word :=
  match s.cm.get w with
  | .any k => Config.anyWord s.epoch k w
  | .val v => v

/-- `KM[c]` (R34, R49). -/
def State.kmAt (s : State) (c : Nat) : Descriptor :=
  match s.km.get c with
  | .any k => Config.anyDescriptor s.epoch k c
  | .val v => v

/-- `MemRead(XM, base, n)`, lowest address first (R34). -/
def State.readXm (s : State) (base n : Nat) : List Elt := (List.range n).map fun i => s.xmAt (base + i)

/-- `MemRead(CM, base, n)` (R34). -/
def State.readCm (s : State) (base n : Nat) : List Word := (List.range n).map fun i => s.cmAt (base + i)

/-! ### Updates of the state, one per piece -/

def State.setXm (s : State) (m : Memory Elt) : State := { s with xm := m }
def State.setCm (s : State) (m : Memory Word) : State := { s with cm := m }
def State.setKm (s : State) (m : Memory Descriptor) : State := { s with km := m }
def State.setStatus (s : State) (r : RunState) : State := { s with status := r }
def State.setCp (s : State) (v : BitVec 32) : State := { s with cp := v }
def State.setArenaBase (s : State) (v : BitVec 32) : State := { s with arenaBase := v }
def State.setArenaSize (s : State) (v : BitVec 33) : State := { s with arenaSize := v }
def State.setIrqEn (s : State) (v : BitVec 2) : State := { s with irqEn := v }
/-- A new draw of ANY has been made. -/
def State.bumpDraws (s : State) : State := { s with draws := s.draws + 1 }
/-- The three fault registers at once (R170, R155). -/
def State.setFaultRegs (s : State) (code : BitVec 4) (cp : BitVec 32) (info : BitVec 64) : State :=
  { s with fcode := code, fcp := cp, finfo := info }

/-- `MemWrite(XM, base, …)`. -/
def State.writeXm (s : State) (base : Nat) (vs : List Elt) : State := s.setXm (s.xm.writeFrom base vs)

/-- `MemWrite(CM, base, …)`. -/
def State.writeCm (s : State) (base : Nat) (vs : List Word) : State := s.setCm (s.cm.writeFrom base vs)

/-- The arena clobber rule: the `need` elements from `ARENA_BASE` hold ANY, by a fresh draw (R46). A command with `NEED = 0`
does not look at the arena. -/
def State.clobberArena (s : State) (need : Nat) : State :=
  if need = 0 then s
  else (s.setXm (s.xm.clobber s.arenaBase.toNat s.draws need)).bumpDraws

/-- `CP <- CP + 1` (R153). -/
def State.advance (s : State) : State := s.setCp (s.cp + 1)

/-! ### Taking a fault, and the return from one -/

/-- The code of a fault (R160). -/
def FaultCode.code : FaultCode → BitVec 4
  | .fetch => 1
  | .opcode => 2
  | .reserved => 3
  | .param => 4
  | .range => 5
  | .arena => 6
  | .overlap => 7

/-- The value of the `STATE` field (R23). -/
def RunState.code : RunState → BitVec 2
  | .idle => 0
  | .run => 1
  | .halted => 2
  | .fault => 3

/-- `raise Fault(code)`: fault entry as R170 describes it. `w0` is the word `W0` of the faulting descriptor; `F_FETCH` records
0 in its place, since no descriptor was read. `CP` and the memories stay as they are. -/
def raiseFault (c : FaultCode) (w0 : Word) (s : State) : State :=
  (s.setFaultRegs c.code s.cp (if c = .fetch then 0 else w0)).setStatus .fault

/-- `CLEAR` (R155): from `HALTED` or `FAULT` to `IDLE` with the fault registers 0; dropped otherwise. -/
def clearFault (s : State) : State :=
  match s.status with
  | .halted | .fault => (s.setFaultRegs 0 0 0).setStatus .idle
  | .idle | .run => s

/-- `START` (R154): from `IDLE` or `HALTED` to `RUN`; dropped otherwise. The return from a fault is `CLEAR`, then `START`
(R171). -/
def startRun (s : State) : State :=
  match s.status with
  | .idle | .halted => s.setStatus .run
  | .run | .fault => s

/-! ### What every command shares -/

/-- The fault of a list of checks in code order: the first that fails decides (R168). -/
def firstFault : List (Bool × FaultCode) → Option FaultCode
  | [] => none
  | (bad, c) :: rest => if bad then some c else firstFault rest

/-- One command: every check is made before anything is written (R169); a failed check takes the fault and writes nothing
else; otherwise the command has its effect and `CP` advances (R153). -/
def runCommand (w0 : Word) (check : Option FaultCode) (effect : State → State) (s : State) :
    Host.Outcome State Fault Refusal :=
  match check with
  | some c => .next (raiseFault c w0 s)
  | none => .next (effect s).advance

/-! ### Fetch and decode -/

/-- What one pass of the fetch of R150 finds. -/
inductive Fetched where
  /-- `STATE ≠ RUN`: the engine does nothing. -/
  | stopped
  /-- The fetch or the decoder takes a fault; the state after fault entry. -/
  | trapped (t : State)
  /-- A command to perform. -/
  | command (i : Instr)
  deriving DecidableEq, Repr

/-- The fault a rejection of the decoder takes (R52). -/
def DecodeError.faultCode : DecodeError → FaultCode
  | .badOpcode => .opcode
  | .badReserved => .reserved

/-- The fetch and decode of R150: nothing unless `RUN`; `F_FETCH` at `CP ≥ KM_SIZE` (R161); then `KM[CP]` is decoded (R52). -/
def fetchDecode (s : State) : Fetched :=
  match s.status with
  | .run =>
    if s.cfg.kmSize ≤ s.cp.toNat then .trapped (raiseFault .fetch 0 s)
    else
      match decode (s.kmAt s.cp.toNat) with
      | .error e => .trapped (raiseFault (DecodeError.faultCode e) (s.kmAt s.cp.toNat).w0 s)
      | .ok i => .command i
  | .idle | .halted | .fault => .stopped

end Sys2Proof.Machine
end

