-- ==== Sys2Proof/Machine/Control.lean ====
section
/-! DEFINITION. The commands `NOP` and `HALT` (spec 45_control.md, part 2). -/

namespace Sys2Proof.Machine

/-- `NOP` (R151). -/
def execNop (s : State) : Host.Outcome State Fault Refusal :=
  runCommand (encode .nop).w0 none (fun s => s) s

/-- `HALT` (R152): `STATE` becomes `HALTED` and `CP` points at the next descriptor. -/
def execHalt (s : State) : Host.Outcome State Fault Refusal :=
  runCommand (encode .halt).w0 none (fun s => s.setStatus .halted) s

end Sys2Proof.Machine
end

