-- ==== Sys2Proof/Machine/Operands.lean ====
section
/-! DEFINITION. Buffer operands: range, overlap, aliasing classes, lengths that are powers of three, and the arena need of each
command (spec 30_encoding.md R61 to R63, 20_memory.md R46, 60_exceptions.md R164 to R167). -/

namespace Sys2Proof.Machine

/-- `log3(r)`, the `k` with `3^k = r` where `r` is a power of three (R33). -/
def log3 (r : Nat) : Nat := Nat.log 3 r

/-- A power of three is `3^k` with `k ≥ 0`; 0 is not one, 1 is (R33, R164). -/
def isPow3 (n : Nat) : Bool := 3 ^ log3 n == n

/-- The smallest power of three that is at least `v`, for `v ≥ 1` (R139). -/
def pow3Ceil (v : Nat) : Nat := 3 ^ Nat.clog 3 v

/-- The split of the multiplier: the smallest power of three `m` with `m² ≥ n` (R110). -/
def mUp (n : Nat) : Nat := 3 ^ Nat.clog 9 n

/-- The split of the driver: the largest power of three `m` with `m² ≤ n` (R130). -/
def mDn (n : Nat) : Nat := 3 ^ Nat.log 9 n

/-- A buffer leaves its memory: `base + len > size` on unbounded numbers (R61, R165). -/
def leaves (base len size : Nat) : Bool := decide (size < base + len)

/-- Two buffers of one memory overlap (R62). -/
def overlap (b1 l1 b2 l2 : Nat) : Bool := decide (b1 < b2 + l2) && decide (b2 < b1 + l1)

/-- Class EW is broken: the source neither has the base of the destination nor is disjoint from it (R63). -/
def ewClash (dst src n : Nat) : Bool := src != dst && overlap dst n src n

/-- `NEED_FFT(r, m)` (R96). -/
def needFft (r m : Nat) : Nat := if r = 1 then 0 else 3 * m

/-- `NEED_MUL(n)` with the depth of the recursion as fuel (R118). -/
def needMulFuel : Nat → Nat → Nat
  | 0, _ => 0
  | f + 1, n => if n ≤ baseMax then 0 else 4 * n + 3 * mUp n + needMulFuel f (mUp n)

/-- `NEED_MUL(n)` (R118). The fuel `log3 n` is never used up: each level at least takes one from it (R121, log 14). -/
def needMul (n : Nat) : Nat := needMulFuel (log3 n) n

/-- `NEED_CC(n)` (R136). -/
def needCc (n : Nat) : Nat := 3 * n + 3 * mDn n + needMul (mDn n)

/-- `F_ARENA`: the command needs an arena, and the granted one is too small or leaves XM (R166). -/
def arenaBad (s : State) (need : Nat) : Bool :=
  decide (0 < need) && (decide (s.arenaSize.toNat < need) || decide (s.cfg.xmSize < s.arenaBase.toNat + need))

/-- An XM operand overlaps the arena clobber range of its own command (R63, R167). -/
def arenaClash (s : State) (need base len : Nat) : Bool :=
  decide (0 < need) && overlap base len s.arenaBase.toNat need

/-- The checks of the element-wise commands with two XM sources (R78). -/
def ewCheck2 (s : State) (dst src0 src1 n : Nat) : Option FaultCode :=
  firstFault
    [ (n == 0, .param),
      (leaves dst n s.cfg.xmSize || leaves src0 n s.cfg.xmSize || leaves src1 n s.cfg.xmSize, .range),
      (ewClash dst src0 n || ewClash dst src1 n, .overlap) ]

/-- The checks of the element-wise commands with one XM source (R80). -/
def ewCheck1 (s : State) (dst src0 n : Nat) : Option FaultCode :=
  firstFault
    [ (n == 0, .param),
      (leaves dst n s.cfg.xmSize || leaves src0 n s.cfg.xmSize, .range),
      (ewClash dst src0 n, .overlap) ]

/-- The checks of `EEMB` (R83): the source lies in CM, so there is no overlap. -/
def embedCheck (s : State) (dst src0 n : Nat) : Option FaultCode :=
  firstFault
    [ (n == 0, .param),
      (leaves dst n s.cfg.xmSize || leaves src0 n s.cfg.cmSize, .range) ]

/-- The checks of `TWID` (R88), class DISJ. -/
def twiddleCheck (s : State) (dst src0 m t : Nat) : Option FaultCode :=
  firstFault
    [ (!isPow3 m || decide (3 * m < t), .param),
      (leaves dst m s.cfg.xmSize || leaves src0 m s.cfg.xmSize, .range),
      (overlap dst m src0 m, .overlap) ]

/-- The checks of `FFT3` and `IFFT3` (R97, R102). -/
def transformCheck (s : State) (dst r m : Nat) : Option FaultCode :=
  firstFault
    [ (!isPow3 r || !isPow3 m || decide (3 * m < r), .param),
      (leaves dst (r * m) s.cfg.xmSize, .range),
      (arenaBad s (needFft r m), .arena),
      (arenaClash s (needFft r m) dst (r * m), .overlap) ]

/-- The checks of `MULMOD` (R120), class DISJ and the arena. -/
def mulmodCheck (s : State) (dst src0 src1 n : Nat) : Option FaultCode :=
  firstFault
    [ (!isPow3 n, .param),
      (leaves dst n s.cfg.xmSize || leaves src0 n s.cfg.xmSize || leaves src1 n s.cfg.xmSize, .range),
      (arenaBad s (needMul n), .arena),
      (overlap dst n src0 n || overlap dst n src1 n || arenaClash s (needMul n) dst n ||
        arenaClash s (needMul n) src0 n || arenaClash s (needMul n) src1 n, .overlap) ]

/-- The checks of `CCONV` (R138), class FREE. -/
def cconvCheck (s : State) (dst src0 src1 n : Nat) : Option FaultCode :=
  firstFault
    [ (!isPow3 n, .param),
      (leaves dst n s.cfg.cmSize || leaves src0 n s.cfg.cmSize || leaves src1 n s.cfg.cmSize, .range),
      (arenaBad s (needCc n), .arena) ]

/-- The checks of `PMUL` (R142), class FREE. -/
def pmulCheck (s : State) (dst src0 la src1 lb : Nat) : Option FaultCode :=
  firstFault
    [ (la == 0 || lb == 0, .param),
      (leaves dst (la + lb - 1) s.cfg.cmSize || leaves src0 la s.cfg.cmSize || leaves src1 lb s.cfg.cmSize, .range),
      (arenaBad s (needCc (pow3Ceil (la + lb - 1))), .arena) ]

end Sys2Proof.Machine
end

