-- ==== Sys2Proof/Machine/Ring.lean ====
section
/-! DEFINITION. The extension-ring functions and the wired constants (spec 10_state.md R7 to R9, 40_ring_arithmetic.md R68 to R77).
All are total; word arithmetic wraps modulo 2^64. -/

namespace Sys2Proof.Machine

/-- `0_R` (R7). -/
def rzero : Elt := ⟨0, 0⟩
/-- `1_R` (R7). -/
def rone : Elt := ⟨1, 0⟩
/-- ω (R7). -/
def omega1 : Elt := ⟨0, 1⟩
/-- ω² (R7). -/
def omega2 : Elt := ⟨0xFFFFFFFFFFFFFFFF, 0xFFFFFFFFFFFFFFFF⟩
/-- INV3, the inverse of 3 modulo 2^64 (R8). -/
def inv3 : Word := 0xAAAAAAAAAAAAAAAB
/-- The CRT weight 1 − ω (R9). -/
def w1mw : Elt := ⟨0x0000000000000001, 0xFFFFFFFFFFFFFFFF⟩
/-- The CRT weight 1 − ω² (R9). -/
def w1mw2 : Elt := ⟨0x0000000000000002, 0x0000000000000001⟩
/-- The CRT weight ω² − ω (R9). -/
def ww2mw : Elt := ⟨0xFFFFFFFFFFFFFFFF, 0xFFFFFFFFFFFFFFFE⟩

/-- R70. -/
def radd (u v : Elt) : Elt := ⟨u.a + v.a, u.b + v.b⟩
/-- R71. -/
def rsub (u v : Elt) : Elt := ⟨u.a - v.a, u.b - v.b⟩
/-- R72. -/
def rneg (u : Elt) : Elt := ⟨-u.a, -u.b⟩
/-- R73. -/
def rmul (u v : Elt) : Elt := ⟨u.a * v.a - u.b * v.b, u.b * v.a + u.a * v.b - u.b * v.b⟩
/-- R74. -/
def rconj (u : Elt) : Elt := ⟨u.a - u.b, -u.b⟩
/-- R75. -/
def remb (w : Word) : Elt := ⟨w, 0⟩
/-- `INV3^k`, the k-fold product (R76). -/
def inv3Pow : Nat → Word
  | 0 => 1
  | k + 1 => inv3Pow k * inv3
/-- R76. -/
def rsc3 (u : Elt) (k : Nat) : Elt := ⟨u.a * inv3Pow k, u.b * inv3Pow k⟩
/-- R77: `u · ω^q`, by `q mod 3`. -/
def rwpow (u : Elt) (q : Nat) : Elt :=
  match q % 3 with
  | 0 => u
  | 1 => ⟨-u.b, u.a - u.b⟩
  | _ => ⟨u.b - u.a, -u.a⟩

/-- A sum of ring elements; the order does not matter (R112). -/
def rsum (us : List Elt) : Elt := us.foldr radd rzero

/-! ### Blocks: sequences of ring elements, coefficient of `x^i` at index `i` (R11) -/

/-- A polynomial buffer's content (R11). -/
abbrev Block := List Elt

/-- Coefficient `i` of a block. -/
def Block.at (p : Block) (i : Nat) : Elt := p.getD i rzero
/-- Block `j` of a list of blocks. -/
def blockAt (ps : List Block) (j : Nat) : Block := ps.getD j []
/-- `+` between blocks, element by element (42_transforms.md). -/
def badd (p q : Block) : Block := List.zipWith radd p q
/-- `rwpow` on every element of a block. -/
def bwpow (p : Block) (q : Nat) : Block := p.map fun u => rwpow u q
/-- `rconj` on every element of a block. -/
def bconj (p : Block) : Block := p.map rconj
/-- `rsc3(·, k)` on every element of a block. -/
def bsc3 (p : Block) (k : Nat) : Block := p.map fun u => rsc3 u k
/-- The block view: the cut of a buffer into `r` consecutive blocks of `m` (R33). -/
def blocksOf (p : Block) (r m : Nat) : List Block := (List.range r).map fun j => (p.drop (j * m)).take m

end Sys2Proof.Machine
end

