-- ==== Sys2Proof/Machine/Twiddle.lean ====
section
/-! DEFINITION. The twiddle (monomial shift) and the command `TWID` (spec 41_twiddle.md). -/

namespace Sys2Proof.Machine

/-- `twiddle(p, t)` (R85): `p · x^t` reduced modulo `x^m − ω`, `m` the length of `p` (R87). -/
def twiddle (p : Block) (t : Nat) : Block :=
  let m := p.length
  let q := t / m
  let tt := t % m
  (List.range m).map fun j =>
    if tt ≤ j then rwpow (p.at (j - tt)) q else rwpow (p.at (j + m - tt)) (q + 1)

/-- `TWID xd, xs0, m, t` (R88). -/
def execTwid (xd xs0 m t : Nat) (s : State) : Host.Outcome State Fault Refusal :=
  runCommand (encode (.twid xd xs0 m t)).w0 (twiddleCheck s xd xs0 m t)
    (fun s => s.writeXm xd (twiddle (s.readXm xs0 m) t)) s

end Sys2Proof.Machine
end

