-- ==== Sys2Proof/Machine/Transform.lean ====
section
/-! DEFINITION. The radix-3 transforms and the commands `FFT3` and `IFFT3` (spec 42_transforms.md). -/

namespace Sys2Proof.Machine

/-- `rev3(k, 3^L)`, base-3 digit reversal in `L` digits (R92, the recursive form). -/
def rev3 : Nat → Nat → Nat
  | 0, _ => 0
  | L + 1, k => (k % 3) * 3 ^ L + rev3 L (k / 3)

/-- The butterfly `A + B + C` (R95, R100). -/
def bfly0 (A B C : Block) : Block := badd (badd A B) C
/-- The butterfly `A + ω·B + ω²·C` (R95, R100). -/
def bfly1 (A B C : Block) : Block := badd (badd A (bwpow B 1)) (bwpow C 2)
/-- The butterfly `A + ω²·B + ω·C` (R95, R100). -/
def bfly2 (A B C : Block) : Block := badd (badd A (bwpow B 2)) (bwpow C 1)

/-- The forward transform of `3^L` blocks of length `m` (R95). `h = r/3`, `step = 3m/r`. -/
def fftLevels (m : Nat) : Nat → List Block → List Block
  | 0, B => B
  | L + 1, B =>
    let h := 3 ^ L
    let step := 3 * m / 3 ^ (L + 1)
    let U := (List.range h).map fun i => bfly0 (blockAt B i) (blockAt B (i + h)) (blockAt B (i + 2 * h))
    let V := (List.range h).map fun i =>
      twiddle (bfly1 (blockAt B i) (blockAt B (i + h)) (blockAt B (i + 2 * h))) (i * step)
    let W := (List.range h).map fun i =>
      twiddle (bfly2 (blockAt B i) (blockAt B (i + h)) (blockAt B (i + 2 * h))) (2 * i * step)
    fftLevels m L U ++ fftLevels m L V ++ fftLevels m L W

/-- `fft3(B, m)` (R94, R95), `r` the number of blocks. -/
def fft3 (B : List Block) (m : Nat) : List Block := fftLevels m (log3 B.length) B

/-- The inverse transform of `3^L` blocks of length `m` (R100), without the division by `r` (R99). -/
def ifftLevels (m : Nat) : Nat → List Block → List Block
  | 0, X => X
  | L + 1, X =>
    let h := 3 ^ L
    let step := 3 * m / 3 ^ (L + 1)
    let U := ifftLevels m L (X.take h)
    let V := ifftLevels m L ((X.drop h).take h)
    let W := ifftLevels m L (X.drop (2 * h))
    let v := fun i => twiddle (blockAt V i) (3 * m - i * step)
    let w := fun i => twiddle (blockAt W i) (3 * m - 2 * i * step)
    ((List.range h).map fun i => bfly0 (blockAt U i) (v i) (w i)) ++
      ((List.range h).map fun i => bfly2 (blockAt U i) (v i) (w i)) ++
      ((List.range h).map fun i => bfly1 (blockAt U i) (v i) (w i))

/-- `ifft3(X, m)` (R99, R100), `r` the number of blocks. -/
def ifft3 (X : List Block) (m : Nat) : List Block := ifftLevels m (log3 X.length) X

/-- The effect of a transform command: the buffer is cut into `r` blocks of `m`, transformed, joined in order and written
back; then the arena range holds ANY (R97). -/
def transformXm (f : List Block → Nat → List Block) (dst r m : Nat) (s : State) : State :=
  (s.writeXm dst (f (blocksOf (s.readXm dst (r * m)) r m) m).flatten).clobberArena (needFft r m)

/-- `FFT3 xd, r, m` (R97). -/
def execFft3 (xd r m : Nat) (s : State) : Host.Outcome State Fault Refusal :=
  runCommand (encode (.fft3 xd r m)).w0 (transformCheck s xd r m) (transformXm fft3 xd r m) s

/-- `IFFT3 xd, r, m` (R102). -/
def execIfft3 (xd r m : Nat) (s : State) : Host.Outcome State Fault Refusal :=
  runCommand (encode (.ifft3 xd r m)).w0 (transformCheck s xd r m) (transformXm ifft3 xd r m) s

end Sys2Proof.Machine
end

