-- ==== Sys2Proof/Machine/Multiplier.lean ====
section
/-! DEFINITION. The recursive multiplier modulo `x^n − ω` and the command `MULMOD` (spec 43_multiplier.md). -/

namespace Sys2Proof.Machine

/-- The base case (R112), in its closed form: `out[k] = Σ_{i+j=k} a[i]·b[j] + ω·Σ_{i+j=k+n} a[i]·b[j]`, `n` the length of `a`.
For each `i` one of the two sums has a term: `j = k − i` if `i ≤ k`, else `j = k + n − i`. -/
def school (a b : Block) : Block :=
  let n := a.length
  (List.range n).map fun k =>
    rsum ((List.range n).map fun i =>
      if i ≤ k then rmul (a.at i) (b.at (k - i)) else rwpow (rmul (a.at i) (b.at (k + n - i))) 1)

/-- One step of the accumulation loop of R112: the product of `a[i]` and `b[j]` lands at `i + j`, or folds back with a factor ω. -/
def schoolAcc (a b : Block) (n i : Nat) (out : Block) (j : Nat) : Block :=
  if i + j < n then out.set (i + j) (radd (out.at (i + j)) (rmul (a.at i) (b.at j)))
  else out.set (i + j - n) (radd (out.at (i + j - n)) (rwpow (rmul (a.at i) (b.at j)) 1))

/-- The base case as the loop of R112 writes it, beside its closed form `school`. -/
def schoolLoop (a b : Block) : Block :=
  let n := a.length
  (List.range n).foldl (fun out i => (List.range n).foldl (schoolAcc a b n i) out) (List.replicate n rzero)

/-- The residues of a product under the weight `x^(g·m/r)`: pass 1 with `g = 1` (R114), pass 2 with `g = 2` (R115). `mul` is
the multiplier that the pass uses for its products of length `m`. -/
def twisted (mul : Block → Block → Block) (a b : Block) (r m g : Nat) : List Block :=
  let e := g * m / r
  let A := (List.range r).map fun j => twiddle (blockAt (blocksOf a r m) j) (j * e)
  let B := (List.range r).map fun j => twiddle (blockAt (blocksOf b r m) j) (j * e)
  let F := fft3 A m
  let G := fft3 B m
  let P := (List.range r).map fun j => mul (blockAt F j) (blockAt G j)
  let Y := ifft3 P m
  (List.range r).map fun j => twiddle (bsc3 (blockAt Y j) (log3 r)) (3 * m - j * e)

/-- The low half of the CRT (R116): `((1−ω)·u + (1−ω²)·v) / 3`. -/
def crtLo (u v : Elt) : Elt := rsc3 (radd (rmul w1mw u) (rmul w1mw2 v)) 1

/-- The high half of the CRT (R116): `(ω²−ω)·(u − v) / 3`. -/
def crtHi (u v : Elt) : Elt := rsc3 (rmul ww2mw (rsub u v)) 1

/-- The recursive case (R113 to R117) for length `n = r·m`: two twisted passes, CRT recombination, assembly with `x^n = ω`
on the wrapped block. -/
def splitMul (mul : Block → Block → Block) (a b : Block) (r m : Nat) : Block :=
  let U := twisted mul a b r m 1
  let V := (twisted mul (bconj a) (bconj b) r m 2).map bconj
  let lo := fun j i => crtLo ((blockAt U j).at i) ((blockAt V j).at i)
  let hi := fun j i => crtHi ((blockAt U j).at i) ((blockAt V j).at i)
  ((List.range r).map fun j => (List.range m).map fun i =>
    if 0 < j then radd (lo j i) (hi (j - 1) i) else radd (lo 0 i) (rwpow (hi (r - 1) i) 1)).flatten

/-- `mulmod` with the depth of the recursion as fuel (R111). -/
def mulmodFuel : Nat → Block → Block → Block
  | 0, a, b => school a b
  | f + 1, a, b =>
    if a.length ≤ baseMax then school a b
    else splitMul (mulmodFuel f) a b (a.length / mUp a.length) (mUp a.length)

/-- `mulmod(a, b)` (R111). The fuel `log3 n` is never used up for a power of three `n` (R121, log 14). -/
def mulmod (a b : Block) : Block := mulmodFuel (log3 a.length) a b

/-- `MULMOD xd, xs0, xs1, n` (R120). -/
def execMulmod (xd xs0 xs1 n : Nat) (s : State) : Host.Outcome State Fault Refusal :=
  runCommand (encode (.mulmod xd xs0 xs1 n)).w0 (mulmodCheck s xd xs0 xs1 n)
    (fun s => (s.writeXm xd (mulmod (s.readXm xs0 n) (s.readXm xs1 n))).clobberArena (needMul n)) s

end Sys2Proof.Machine
end

