-- ==== Sys2Proof/Machine/Convolution.lean ====
section
/-! DEFINITION. The cyclic-convolution driver, the public multiply and the commands `CCONV` and `PMUL` (spec 44_convolution.md). -/

namespace Sys2Proof.Machine

/-- `F[i]` of a word sequence, 0 beyond its end. -/
def wordAt (p : List Word) (i : Nat) : Word := p.getD i 0

/-- The residues `U_j = c_j mod (x^m − ω)` of R133 for two embedded inputs of `r·m` words (R132, R133). -/
def cconvResidues (a b : List Word) (r m : Nat) : List Block :=
  let F := fft3 (blocksOf (a.map remb) r m) m
  let G := fft3 (blocksOf (b.map remb) r m) m
  let P := (List.range r).map fun j => mulmod (blockAt F j) (blockAt G j)
  (List.range r).map fun j => bsc3 (blockAt (ifft3 P m) j) (log3 r)

/-- `cconv(a, b)` (R131 to R135): the conjugate shortcut, the CRT and the assembly modulo `x^n − 1`. -/
def cconv (a b : List Word) : List Word :=
  let n := a.length
  let m := mDn n
  let r := n / m
  let U := cconvResidues a b r m
  let lo := fun j i => (crtLo ((blockAt U j).at i) (rconj ((blockAt U j).at i))).a
  let hi := fun j i => (crtHi ((blockAt U j).at i) (rconj ((blockAt U j).at i))).a
  ((List.range r).map fun j => (List.range m).map fun i => lo j i + hi ((j + r - 1) % r) i).flatten

/-- `p` with zeros behind it, to length `s` (R140). -/
def padTo (p : List Word) (s : Nat) : List Word := p ++ List.replicate (s - p.length) 0

/-- `pmul(p, q)` (R140): zero-pad, convolve cyclically, keep the first `lenA + lenB − 1` words. -/
def pmul (p q : List Word) : List Word :=
  let L := p.length + q.length - 1
  let s := pow3Ceil L
  (cconv (padTo p s) (padTo q s)).take L

/-- `CCONV cd, cs0, cs1, n` (R138). -/
def execCconv (cd cs0 cs1 n : Nat) (s : State) : Host.Outcome State Fault Refusal :=
  runCommand (encode (.cconv cd cs0 cs1 n)).w0 (cconvCheck s cd cs0 cs1 n)
    (fun s => (s.writeCm cd (cconv (s.readCm cs0 n) (s.readCm cs1 n))).clobberArena (needCc n)) s

/-- `PMUL cd, cs0, lenA, cs1, lenB` (R142). -/
def execPmul (cd cs0 lenA cs1 lenB : Nat) (s : State) : Host.Outcome State Fault Refusal :=
  runCommand (encode (.pmul cd cs0 lenA cs1 lenB)).w0 (pmulCheck s cd cs0 lenA cs1 lenB)
    (fun s => (s.writeCm cd (pmul (s.readCm cs0 lenA) (s.readCm cs1 lenB))).clobberArena
      (needCc (pow3Ceil (lenA + lenB - 1)))) s

/-! ### The closed forms, beside the algorithms (R137, R140) -/

/-- A sum of words modulo 2^64. -/
def wsum (ws : List Word) : Word := ws.foldr (· + ·) 0

/-- The closed form of R137: `out[k] = Σ_{i+j ≡ k (mod n)} a[i]·b[j]`. -/
def cyclicSum (a b : List Word) : List Word :=
  let n := a.length
  (List.range n).map fun k => wsum ((List.range n).map fun i => wordAt a i * wordAt b ((k + n - i) % n))

/-- The closed form of R140: `out[k] = Σ_{i+j=k} p[i]·q[j]`, `p.length + q.length − 1` words. -/
def polySum (p q : List Word) : List Word :=
  (List.range (p.length + q.length - 1)).map fun k =>
    wsum ((List.range (k + 1)).map fun i => wordAt p i * wordAt q (k - i))

end Sys2Proof.Machine
end

