-- ==== Sys2Proof/Machine/Elementwise.lean ====
section
/-! DEFINITION. The element-wise commands (spec 40_ring_arithmetic.md, part 2). -/

namespace Sys2Proof.Machine

/-- The effect of a command that applies `f` element by element to two XM buffers, read whole before the write (R47). -/
def mapXm2 (f : Elt → Elt → Elt) (dst src0 src1 n : Nat) (s : State) : State :=
  s.writeXm dst (List.zipWith f (s.readXm src0 n) (s.readXm src1 n))

/-- The effect of a command that applies `f` element by element to one XM buffer, read whole before the write (R47). -/
def mapXm1 (f : Elt → Elt) (dst src0 n : Nat) (s : State) : State :=
  s.writeXm dst ((s.readXm src0 n).map f)

/-- `EADD xd, xs0, xs1, len` (R78). -/
def execEadd (xd xs0 xs1 len : Nat) (s : State) : Host.Outcome State Fault Refusal :=
  runCommand (encode (.eadd xd xs0 xs1 len)).w0 (ewCheck2 s xd xs0 xs1 len) (mapXm2 radd xd xs0 xs1 len) s

/-- `ESUB xd, xs0, xs1, len` (R79): SRC0 minus SRC1. -/
def execEsub (xd xs0 xs1 len : Nat) (s : State) : Host.Outcome State Fault Refusal :=
  runCommand (encode (.esub xd xs0 xs1 len)).w0 (ewCheck2 s xd xs0 xs1 len) (mapXm2 rsub xd xs0 xs1 len) s

/-- `ENEG xd, xs0, len` (R80). -/
def execEneg (xd xs0 len : Nat) (s : State) : Host.Outcome State Fault Refusal :=
  runCommand (encode (.eneg xd xs0 len)).w0 (ewCheck1 s xd xs0 len) (mapXm1 rneg xd xs0 len) s

/-- `EMUL xd, xs0, xs1, len` (R81): the point-wise product, not a polynomial product. -/
def execEmul (xd xs0 xs1 len : Nat) (s : State) : Host.Outcome State Fault Refusal :=
  runCommand (encode (.emul xd xs0 xs1 len)).w0 (ewCheck2 s xd xs0 xs1 len) (mapXm2 rmul xd xs0 xs1 len) s

/-- `ECONJ xd, xs0, len` (R82). -/
def execEconj (xd xs0 len : Nat) (s : State) : Host.Outcome State Fault Refusal :=
  runCommand (encode (.econj xd xs0 len)).w0 (ewCheck1 s xd xs0 len) (mapXm1 rconj xd xs0 len) s

/-- `EEMB xd, cs0, len` (R83): CM words into XM elements. -/
def execEemb (xd cs0 len : Nat) (s : State) : Host.Outcome State Fault Refusal :=
  runCommand (encode (.eemb xd cs0 len)).w0 (embedCheck s xd cs0 len)
    (fun s => s.writeXm xd ((s.readCm cs0 len).map remb)) s

/-- `ESC3 xd, xs0, len, k` (R84); with `k = 0` it is the copy `ECPY` (R60). -/
def execEsc3 (xd xs0 len k : Nat) (s : State) : Host.Outcome State Fault Refusal :=
  runCommand (encode (.esc3 xd xs0 len k)).w0 (ewCheck1 s xd xs0 len) (mapXm1 (fun u => rsc3 u k) xd xs0 len) s

end Sys2Proof.Machine
end

