-- ==== Sys2Proof/Machine/Dispatch.lean ====
section
/-! DEFINITION. One arm per command: what it does (spec 30_encoding.md R53). -/

namespace Sys2Proof.Machine

def exec (i : Instr) (s : State) : Host.Outcome State Fault Refusal :=
  match i with
  | .nop => Sys2Proof.Machine.execNop s
  | .halt => Sys2Proof.Machine.execHalt s
  | .eadd xd xs0 xs1 len => Sys2Proof.Machine.execEadd xd xs0 xs1 len s
  | .esub xd xs0 xs1 len => Sys2Proof.Machine.execEsub xd xs0 xs1 len s
  | .eneg xd xs0 len => Sys2Proof.Machine.execEneg xd xs0 len s
  | .emul xd xs0 xs1 len => Sys2Proof.Machine.execEmul xd xs0 xs1 len s
  | .econj xd xs0 len => Sys2Proof.Machine.execEconj xd xs0 len s
  | .eemb xd cs0 len => Sys2Proof.Machine.execEemb xd cs0 len s
  | .esc3 xd xs0 len k => Sys2Proof.Machine.execEsc3 xd xs0 len k s
  | .twid xd xs0 m t => Sys2Proof.Machine.execTwid xd xs0 m t s
  | .fft3 xd r m => Sys2Proof.Machine.execFft3 xd r m s
  | .ifft3 xd r m => Sys2Proof.Machine.execIfft3 xd r m s
  | .mulmod xd xs0 xs1 n => Sys2Proof.Machine.execMulmod xd xs0 xs1 n s
  | .cconv cd cs0 cs1 n => Sys2Proof.Machine.execCconv cd cs0 cs1 n s
  | .pmul cd cs0 lenA cs1 lenB => Sys2Proof.Machine.execPmul cd cs0 lenA cs1 lenB s

end Sys2Proof.Machine
end

