-- ==== Sys2Proof/Machine/Step.lean ====
section
/-! DEFINITION. The fetch-execute step (spec 45_control.md R150) and the placing of one instruction where it fetches. -/

namespace Sys2Proof.Machine

/-- One architectural step (R150): nothing while `STATE ≠ RUN`, else one fetch, then the fault it finds or the command. -/
def step (s : State) : Host.Outcome State Fault Refusal :=
  match fetchDecode s with
  | .stopped => .next s
  | .trapped t => .next t
  | .command i => exec i s

/-- The index in KM of the descriptor the next step fetches: `CP` where KM has it, else 0. -/
def State.fetchIndex (s : State) : Nat := if s.cp.toNat < s.cfg.kmSize then s.cp.toNat else 0

/-- `s` with the instruction of the table bits `w` in the descriptor that the next step fetches, and the engine running, as a
host leaves it that wrote KM and `CTRL.START` (R48, R154, log 8). `CP` keeps its value where KM has a descriptor there. -/
def State.withFetchWord (s : State) (nbits w : Nat) : State :=
  ((s.setKm (s.km.put s.fetchIndex (.val (descriptorOfNat (w % 2 ^ nbits))))).setCp
    (BitVec.ofNat 32 s.fetchIndex)).setStatus .run

end Sys2Proof.Machine
end

