-- ==== Sys2Proof/Machine/Flags.lean ====
section
/-! DEFINITION. The engine has no flags and no condition codes (R20): no command computes one. The one signal that is
computed from status bits is the interrupt line (R31, R173). -/

namespace Sys2Proof.Machine

/-- `IRQ_EN.EN_HALT` (R30). -/
def State.enHalt (s : State) : Bool := s.irqEn.getLsbD 0

/-- `IRQ_EN.EN_FAULT` (R30). -/
def State.enFault (s : State) : Bool := s.irqEn.getLsbD 1

/-- The output `IRQ` (R31): not state, a function of `STATUS` and `IRQ_EN`. -/
def State.irq (s : State) : Bool :=
  (s.enHalt && decide (s.status = .halted)) || (s.enFault && decide (s.status = .fault))

end Sys2Proof.Machine
end

