-- ==== Sys2Proof/Machine/HostPort.lean ====
section
/-! DEFINITION. What the host and the platform do to the engine, beside its own step: CSR and memory access, START and CLEAR,
reset (spec 10_state.md R17, R21 to R30; 20_memory.md R40, R45; 45_control.md R154 to R156; 70_reset_and_hazards.md R190, R191).
The host acts between two steps (log 10). -/

namespace Sys2Proof.Machine

/-- The four host-visible regions (R4, R17). -/
inductive Region where
  | csr
  | km
  | cm
  | xm
  deriving DecidableEq, Repr

/-- The address, in 64-bit words, at which the platform shows word `off` of a region (R4, R17). -/
def hostAddress (c : Config) (r : Region) (off : Nat) : Nat :=
  match r with
  | .csr => c.csrBase + off
  | .km => c.kmBase + off
  | .cm => c.cmBase + off
  | .xm => c.xmBase + off

/-- Byte `i` of a word on a platform that maps words onto bytes: little-endian, bits [7:0] at the lowest address (R40). -/
def wordByte (w : Word) (i : Nat) : BitVec 8 := w.extractLsb' (8 * i) 8

/-! ### Control and status registers (R21) -/

/-- A host read of the CSR at a word offset (R21, R156): no side effect; unused bits, `CTRL` and the reserved offsets read 0. -/
def csrRead (off : Nat) (s : State) : Word :=
  match off with
  | 1 => s.status.code.setWidth 64
  | 2 => s.cp.setWidth 64
  | 3 => s.arenaBase.setWidth 64
  | 4 => s.arenaSize.setWidth 64
  | 5 => s.fcode.setWidth 64
  | 6 => s.fcp.setWidth 64
  | 7 => s.finfo
  | 8 => s.irqEn.setWidth 64
  | _ => 0

/-- The strobes of a write to `CTRL` (R22): `CLEAR` acts first, `START` second. -/
def ctrlWrite (v : Word) (s : State) : State :=
  let s1 := if v.getLsbD 1 then clearFault s else s
  if v.getLsbD 0 then startRun s1 else s1

/-- A write marked RW*: dropped while `RUN` (R21, R156). -/
def unlessRunning (s : State) (f : State → State) : State :=
  match s.status with
  | .run => s
  | .idle | .halted | .fault => f s

/-- A host write of the CSR at a word offset (R21, R156). Bits outside the bits used are dropped. -/
def csrWrite (off : Nat) (v : Word) (s : State) : State :=
  match off with
  | 0 => ctrlWrite v s
  | 2 => unlessRunning s fun s => s.setCp (v.setWidth 32)
  | 3 => unlessRunning s fun s => s.setArenaBase (v.setWidth 32)
  | 4 => unlessRunning s fun s => s.setArenaSize (v.setWidth 33)
  | 8 => s.setIrqEn (v.setWidth 2)
  | _ => s

/-! ### Memories as 64-bit words (R17) -/

/-- Word `j` of an element: `a` at 0, `b` at 1 (R10, R17). -/
def eltWord (u : Elt) (j : Nat) : Word := if j = 0 then u.a else u.b

/-- An element with word `j` replaced. -/
def eltSetWord (u : Elt) (j : Nat) (v : Word) : Elt := if j = 0 then { u with a := v } else { u with b := v }

/-- Word `j` of a descriptor: `W0`, `W1`, `W2` (R17). -/
def descWord (d : Descriptor) (j : Nat) : Word := if j = 0 then d.w0 else if j = 1 then d.w1 else d.w2

/-- A descriptor with word `j` replaced. -/
def descSetWord (d : Descriptor) (j : Nat) (v : Word) : Descriptor :=
  if j = 0 then { d with w0 := v } else if j = 1 then { d with w1 := v } else { d with w2 := v }

/-- How many 64-bit words a memory region has (R17). The CSR region has no end in the spec. -/
def regionSize (c : Config) : Region → Nat
  | .csr => 0
  | .km => 3 * c.kmSize
  | .cm => c.cmSize
  | .xm => 2 * c.xmSize

/-- The word of a memory region that a stopped engine shows the host (R17). -/
def memWord (r : Region) (off : Nat) (s : State) : Word :=
  match r with
  | .csr => csrRead off s
  | .km => descWord (s.kmAt (off / 3)) (off % 3)
  | .cm => s.cmAt off
  | .xm => eltWord (s.xmAt (off / 2)) (off % 2)

/-- The memory after a host write of one word (R17): the other words of the unit keep their value (R42). -/
def memSetWord (r : Region) (off : Nat) (v : Word) (s : State) : State :=
  match r with
  | .csr => s
  | .km => s.setKm (s.km.put (off / 3) (.val (descSetWord (s.kmAt (off / 3)) (off % 3) v)))
  | .cm => s.setCm (s.cm.put off (.val v))
  | .xm => s.setXm (s.xm.put (off / 2) (.val (eltSetWord (s.xmAt (off / 2)) (off % 2) v)))

/-- A host write of one 64-bit word at an offset of a region: CSRs by R156; memories while the engine is not running (R45).
A write past the end of a memory region reaches no unit and is dropped (DESIGN CHOICE, log 11). -/
def hostWrite (r : Region) (off : Nat) (v : Word) (s : State) : State :=
  match r with
  | .csr => csrWrite off v s
  | .km | .cm | .xm =>
    unlessRunning s fun s => if off < regionSize s.cfg r then memSetWord r off v s else s

/-- A read that returns ANY: a free value of a draw of its own (R45, log 12). -/
def readAny (s : State) : Word × State := (Config.anyHostRead s.epoch s.draws, s.bumpDraws)

/-- A host read of one 64-bit word: the word, and the state after, which differs only in the model's own draw counter. A read
of a memory while the engine runs returns ANY (R45); so does one past the end of a region (DESIGN CHOICE, log 11). -/
def hostRead (r : Region) (off : Nat) (s : State) : Word × State :=
  match r with
  | .csr => (csrRead off s, s)
  | .km | .cm | .xm =>
    match s.status with
    | .run => readAny s
    | .idle | .halted | .fault => if off < regionSize s.cfg r then (memWord r off s, s) else readAny s

/-- Reset by the platform, in any state (R190, R191): the table of R32 again, with every unit of memory drawn anew. -/
def platformReset (s : State) : State := { State.resetOf s.cfg with epoch := s.epoch + 1 }

/-- The acts of the host and of the platform. -/
inductive HostAct where
  | write (r : Region) (off : Nat) (v : Word)
  | read (r : Region) (off : Nat)
  | reset
  deriving DecidableEq, Repr

/-- The state after one act from outside. -/
def hostAct (a : HostAct) (s : State) : State :=
  match a with
  | .write r off v => hostWrite r off v s
  | .read r off => (hostRead r off s).2
  | .reset => platformReset s

/-! ### The host's signed view of a coefficient (R141; the engine does nothing at this boundary) -/

/-- The word a host stores for a signed integer (R141). -/
def ofSigned (z : Int) : Word := BitVec.ofInt 64 z

/-- The signed integer a host reads from a word (R141, two's complement; G1 of 93_implementation_defined.md). -/
def toSigned (w : Word) : Int := if w.toNat < 2 ^ 63 then (w.toNat : Int) else (w.toNat : Int) - 2 ^ 64

end Sys2Proof.Machine
end

