-- ==== Sys2Proof/Safety.lean ====
section
/-! DEFINITION. What the claims mean by a sound state, by the end of a run and by a system of engine and host. -/

namespace Sys2Proof.Machine

/-- Two buffers of one memory do not overlap (R62). -/
abbrev Apart (b1 l1 b2 l2 : Nat) : Prop := ¬ (b1 < b2 + l2 ∧ b2 < b1 + l1)

/-- Class EW (R63): the source has the base of the destination or does not overlap it. -/
abbrev SameOrApart (dst src n : Nat) : Prop := src = dst ∨ Apart dst n src n

/-- The arena that the host grants is enough for `need` elements and lies in XM, where any is needed (R46, R166). -/
abbrev ArenaGranted (s : State) (need : Nat) : Prop :=
  0 < need → need ≤ s.arenaSize.toNat ∧ s.arenaBase.toNat + need ≤ s.cfg.xmSize

/-- A buffer does not overlap the arena clobber range of `need` elements (R46, R63). -/
abbrev ArenaClear (s : State) (need base len : Nat) : Prop :=
  0 < need → Apart base len s.arenaBase.toNat need

/-- The unit `e` lies in the arena clobber range of `need` elements (R46). -/
abbrev InArena (s : State) (need e : Nat) : Prop := s.arenaBase.toNat ≤ e ∧ e < s.arenaBase.toNat + need

/-- The state after fault entry by command `i` with the given code (R170): the fault registers and `STATE` are written, `CP` and
every memory stay. `(encode i).w0` is the word `W0` of a fetched command, since a legal descriptor has one spelling (R57). -/
def trapState (code : BitVec 4) (i : Instr) (s : State) : State :=
  { s with status := .fault, fcode := code, fcp := s.cp, finfo := (encode i).w0 }

/-- The block view of the XM buffer of `r·m` elements at `base` (R33, R61). -/
def blocksAt (s : State) (base r m : Nat) : List Block :=
  (List.range r).map fun j => (List.range m).map fun i => s.xmAt (base + j * m + i)

/-- The rows of spec/opcode_table.json in its order: `match` and `must_be_zero_mask` over the number `W2, W1, W0` (R53, R55, R56). -/
def opcodeRows : List (BitVec 192 × BitVec 192) :=
  [ (0x00, 0xFFFFFFFFFFFFFFFFFFFFFFFFFFFFFFFFFFFFFFFFFFFFFF00),
    (0x01, 0xFFFFFFFFFFFFFFFFFFFFFFFFFFFFFFFFFFFFFFFFFFFFFF00),
    (0x10, 0xFFFFFFFF00000000000000000000000000000000FFFFFF00),
    (0x11, 0xFFFFFFFF00000000000000000000000000000000FFFFFF00),
    (0x12, 0xFFFFFFFFFFFFFFFF000000000000000000000000FFFFFF00),
    (0x13, 0xFFFFFFFF00000000000000000000000000000000FFFFFF00),
    (0x14, 0xFFFFFFFFFFFFFFFF000000000000000000000000FFFFFF00),
    (0x15, 0xFFFFFFFFFFFFFFFF000000000000000000000000FFFFFF00),
    (0x16, 0xFFFFFFFFFFFFFFFF000000000000000000000000FFFF0000),
    (0x20, 0x00000000FFFFFFFF000000000000000000000000FFFFFF00),
    (0x30, 0x00000000FFFFFFFFFFFFFFFF0000000000000000FFFFFF00),
    (0x31, 0x00000000FFFFFFFFFFFFFFFF0000000000000000FFFFFF00),
    (0x40, 0xFFFFFFFF00000000000000000000000000000000FFFFFF00),
    (0x50, 0xFFFFFFFF00000000000000000000000000000000FFFFFF00),
    (0x51, 0x0000000000000000000000000000000000000000FFFFFF00) ]

/-- The 192-bit number of a descriptor, `W0` in bits [63:0] (R50). -/
def descriptorBits (d : Descriptor) : BitVec 192 := d.w2 ++ d.w1 ++ d.w0

/-- The fault registers agree with `STATE`: a code 1 to 7 while `FAULT`, with `FINFO = 0` for `F_FETCH`, and all three 0
otherwise (R23, R27, R29, R154, R155). -/
def State.faultRegsSound (s : State) : Bool :=
  match s.status with
  | .fault => decide (1 ≤ s.fcode.toNat) && decide (s.fcode.toNat ≤ 7) && (s.fcode != 1 || s.finfo == 0)
  | .idle | .run | .halted => s.fcode == 0 && s.fcp == 0 && s.finfo == 0

/-- The invariant of the machine: sizes in the bounds of R4; each memory in canonical form, listing only units that exist, its
ANY drawn before the next draw; fault registers that agree with `STATE`. -/
def State.inv (s : State) : Bool :=
  s.cfg.wf && s.xm.wf && s.cm.wf && s.km.wf &&
    s.xm.within s.cfg.xmSize && s.cm.within s.cfg.cmSize && s.km.within s.cfg.kmSize &&
    decide (1 ≤ s.draws) && s.xm.drawnBefore s.draws && s.cm.drawnBefore s.draws && s.km.drawnBefore s.draws &&
    s.faultRegsSound

/-- The run that the state belongs to has ended (R157). -/
def State.ended (s : State) : Prop := s.status ≠ .run

/-- A run that ended as it should (R157): `HALTED`. A run that ends in `FAULT` has gone wrong. -/
def State.endedWell (s : State) : Prop := s.status = .halted

/-- What happens next in the system: the engine steps, or something outside acts (R45). -/
inductive Event where
  | engine
  | host (a : HostAct)
  deriving DecidableEq, Repr

/-- One event. -/
def eventStep (e : Event) (s : State) : Host.Outcome State Fault Refusal :=
  match e with
  | .engine => step s
  | .host a => .next (hostAct a s)

/-- Any interleaving of engine steps and acts from outside. -/
def runEvents : List Event → State → Host.Outcome State Fault Refusal
  | [], s => .next s
  | e :: es, s =>
    match eventStep e s with
    | .next t => runEvents es t
    | .fault f => .fault f
    | .refused r => .refused r

end Sys2Proof.Machine
end

