-- ==== Sys2Proof/Certificates/Slice0/Obligations.lean ====
section
/-! DEFINITION. The statements about the conv64 engine that the provers settle. Each cites the rules of spec/ it formalises.
Where a statement covers the element-wise or arena-using commands, `t = { s with … }` is its frame: every piece of the state that
the update does not name is as it was. "Derived in the spec" marks what the spec itself infers from other rules ("[derived: …]"). -/

open Sys2Proof Sys2Proof.Machine

/-! ### The extension ring (40_ring_arithmetic.md, 10_state.md) -/

/-- Derived in the spec (R9 from R7 and R71; R8 from R7): the three CRT weights are 1 − ω, 1 − ω² and ω² − ω with the printed words. With R7 and R8: ω² is the square of ω, and
INV3 is the one word that multiplied by 3 gives 1. -/
def Obligations.CrtWeightsAndConstantsHaveTheirWords : Prop :=
  w1mw = rsub rone omega1 ∧ w1mw = ⟨0x0000000000000001, 0xFFFFFFFFFFFFFFFF⟩ ∧
    w1mw2 = rsub rone omega2 ∧ w1mw2 = ⟨0x0000000000000002, 0x0000000000000001⟩ ∧
    ww2mw = rsub omega2 omega1 ∧ ww2mw = ⟨0xFFFFFFFFFFFFFFFF, 0xFFFFFFFFFFFFFFFE⟩ ∧
    omega2 = rmul omega1 omega1 ∧ (∀ x : Word, 3 * x = 1 ↔ x = inv3)

/-- Derived in the spec (R69 from R70 to R75): the laws of the ring functions. -/
def Obligations.ExtensionRingLaws : Prop :=
  (∀ u v, rconj (rmul u v) = rmul (rconj u) (rconj v)) ∧ (∀ u, rconj (rconj u) = u) ∧
    (∀ u v w, radd (radd u v) w = radd u (radd v w)) ∧ (∀ u v, radd u v = radd v u) ∧ (∀ u, radd rzero u = u) ∧
    (∀ u, radd u (rneg u) = rzero) ∧ (∀ u v, rsub u v = radd u (rneg v)) ∧
    (∀ u v w, rmul (rmul u v) w = rmul u (rmul v w)) ∧ (∀ u v, rmul u v = rmul v u) ∧ (∀ u, rmul rone u = u) ∧
    (∀ u v w, rmul u (radd v w) = radd (rmul u v) (rmul u w)) ∧
    (∀ x y, remb (x + y) = radd (remb x) (remb y)) ∧ (∀ x y, remb (x * y) = rmul (remb x) (remb y)) ∧ remb 1 = rone ∧
    (∀ u v, rconj (radd u v) = radd (rconj u) (rconj v)) ∧ (∀ x, rconj (remb x) = remb x) ∧
    rconj omega1 = omega2 ∧ rconj omega2 = omega1 ∧
    radd (radd rone omega1) omega2 = rzero ∧ rmul omega1 omega1 = omega2 ∧ rmul omega1 omega2 = rone ∧
    (∀ u, radd u (rconj u) = ⟨2 * u.a - u.b, 0⟩) ∧
    (∀ u, rmul u (rconj u) = ⟨u.a * u.a - u.a * u.b + u.b * u.b, 0⟩) ∧ rmul ww2mw ww2mw = ⟨-3, 0⟩

/-- The scaling by INV3^k of R76, with the power as the ring of words has it; its composition is derived in the spec (from R73). -/
def Obligations.ScalingIsUndoneByThePowerOfThree : Prop :=
  ∀ (u : Elt) (k : Nat), rsc3 u k = ⟨u.a * inv3 ^ k, u.b * inv3 ^ k⟩ ∧ rsc3 u k = rmul u (remb (inv3 ^ k)) ∧ rsc3 u 0 = u ∧
    (∀ j, rsc3 (rsc3 u j) k = rsc3 u (j + k)) ∧ (rsc3 u k).a * 3 ^ k = u.a ∧ (rsc3 u k).b * 3 ^ k = u.b

/-- Derived in the spec (R77 from R73 and R7): `rwpow(u, q)` is `u` times `ω^q` and depends only on `q mod 3`. -/
def Obligations.OmegaPowersMultiplyByOmega : Prop :=
  ∀ (u : Elt) (q : Nat), (q % 3 = 0 → rwpow u q = u) ∧
    (q % 3 = 1 → rwpow u q = ⟨-u.b, u.a - u.b⟩ ∧ rwpow u q = rmul u omega1) ∧
    (q % 3 = 2 → rwpow u q = ⟨u.b - u.a, -u.a⟩ ∧ rwpow u q = rmul u omega2) ∧ rwpow u (q + 1) = rmul (rwpow u q) omega1

/-! ### The twiddle (41_twiddle.md) -/

/-- R86: the shifts 0 and 3m are the identity. -/
def Obligations.TwiddleIdentityAtBothEnds : Prop :=
  ∀ p : Block, 1 ≤ p.length → twiddle p 0 = p ∧ twiddle p (3 * p.length) = p

/-- R87 in the form of its derivation in the spec (from R85): `p[i]·x^(i+t)` lands at index `(i + t) mod m` with a factor ω for each whole `m`
in `i + t`. -/
def Obligations.TwiddleIsMultiplicationByAPowerOfX : Prop :=
  ∀ (p : Block) (t : Nat), 1 ≤ p.length → t ≤ 3 * p.length →
    (twiddle p t).length = p.length ∧
      ∀ i, i < p.length → (twiddle p t).at ((i + t) % p.length) = rwpow (p.at i) ((i + t) / p.length)

/-- Derived in the spec (R89 from R87, all but its last point, which counts work; R90 from R85): one element is multiplied by
`ω^t`; shifts compose, `3m − t` undoes `t`, whole multiples of `m` rotate nothing, and
the twiddle is R-linear. -/
def Obligations.TwiddlesComposeAndAreLinear : Prop :=
  (∀ (u : Elt) (t : Nat), t ≤ 3 → twiddle [u] t = [rwpow u t]) ∧
  ∀ (p : Block) (s t : Nat), 1 ≤ p.length → s ≤ 3 * p.length → t ≤ 3 * p.length →
    twiddle (twiddle p s) t = twiddle p ((s + t) % (3 * p.length)) ∧
      twiddle (twiddle p t) (3 * p.length - t) = p ∧
      twiddle p p.length = bwpow p 1 ∧ twiddle p (2 * p.length) = bwpow p 2 ∧
      (∀ p' : Block, p'.length = p.length → twiddle (badd p p') t = badd (twiddle p t) (twiddle p' t)) ∧
      (∀ c : Elt, twiddle (p.map (rmul c)) t = (twiddle p t).map (rmul c))

/-! ### The transforms (42_transforms.md) -/

/-- Derived in the spec (R92 from R95): the digits of `rev3(k, 3^L)` are those of `k` reversed; it is a permutation of `[0, 3^L)`, its own inverse; the recursive
form and the printed row for 9. -/
def Obligations.DigitReversalIsAnInvolution : Prop :=
  (∀ L k, k < 3 ^ L → rev3 L k < 3 ^ L ∧ rev3 L (rev3 L k) = k ∧
    rev3 L k = ((List.range L).map fun i => (k / 3 ^ i % 3) * 3 ^ (L - 1 - i)).sum) ∧
    (∀ k, rev3 0 k = 0) ∧ (∀ L k, rev3 (L + 1) k = (k % 3) * 3 ^ L + rev3 L (k / 3)) ∧
    (List.range 9).map (rev3 2) = [0, 3, 6, 1, 4, 7, 2, 5, 8]

/-- Derived in the spec (R94 from R95, by induction on r): the forward transform is the discrete Fourier transform with respect to `y`, kernel `ζ^(+jk)`, `ζ = x^(3m/r)`, in
base-3-digit-reversed block order. Coefficient `i` of output block `rev3(k, r)` is that of `Σ_j B_j · ζ^(jk)`. -/
def Obligations.ForwardTransformIsDigitReversedDft : Prop :=
  ∀ (a L : Nat) (B : List Block), 3 ^ L ≤ 3 * 3 ^ a → B.length = 3 ^ L → (∀ p ∈ B, p.length = 3 ^ a) →
    (fft3 B (3 ^ a)).length = 3 ^ L ∧ ∀ k, k < 3 ^ L → ∀ i, i < 3 ^ a →
      (blockAt (fft3 B (3 ^ a)) (rev3 L k)).at i =
        rsum ((List.range (3 ^ L)).map fun j =>
          (twiddle (blockAt B j) ((j * k * (3 * 3 ^ a / 3 ^ L)) % (3 * 3 ^ a))).at i)

/-- R99, whose factor r is derived in the spec (from R94): the inverse transform of any blocks in digit-reversed order is the sum with kernel `ζ^(−jk)`, in natural order, without the
division by `r`: the inverse of the forward transform is `r` times the input. -/
def Obligations.InverseTransformIsConjugateKernelSum : Prop :=
  ∀ (a L : Nat) (X : List Block), 3 ^ L ≤ 3 * 3 ^ a → X.length = 3 ^ L → (∀ p ∈ X, p.length = 3 ^ a) →
    (ifft3 X (3 ^ a)).length = 3 ^ L ∧ (∀ j, j < 3 ^ L → ∀ i, i < 3 ^ a →
      (blockAt (ifft3 X (3 ^ a)) j).at i =
        rsum ((List.range (3 ^ L)).map fun k =>
          (twiddle (blockAt X (rev3 L k))
            ((3 * 3 ^ a - (j * k * (3 * 3 ^ a / 3 ^ L)) % (3 * 3 ^ a)) % (3 * 3 ^ a))).at i)) ∧
      ifft3 (fft3 X (3 ^ a)) (3 ^ a) = X.map (fun p => p.map (rmul (remb (BitVec.ofNat 64 (3 ^ L)))))

/-- Derived in the spec (R103 from R99 and R76), the transform inverse law: forward transform, inverse transform and the scaling by INV3^log3(r) give the blocks back. -/
def Obligations.TransformRoundTripRestoresTheBlocks : Prop :=
  ∀ (a L : Nat) (B : List Block), 3 ^ L ≤ 3 * 3 ^ a → B.length = 3 ^ L → (∀ p ∈ B, p.length = 3 ^ a) →
    (ifft3 (fft3 B (3 ^ a)) (3 ^ a)).map (fun p => bsc3 p L) = B

/-! ### The multiplier and the driver (43_multiplier.md, 44_convolution.md) -/

/-- R112: the accumulation loop of the base case has the closed form; for `n = 1` it is the one product. -/
def Obligations.SchoolbookLoopHasItsClosedForm : Prop :=
  (∀ a b : Block, b.length = a.length → schoolLoop a b = school a b) ∧ (∀ u v : Elt, schoolLoop [u] [v] = [rmul u v])

/-- Derived in the spec (in R116 and R134): the CRT recovers both halves from the two residues `lo + ω·hi` and `lo + ω²·hi`; and R134: for a real product the residue
and its conjugate give the two components. -/
def Obligations.CrtRecoversBothHalves : Prop :=
  (∀ lo hi : Elt, crtLo (radd lo (rmul omega1 hi)) (radd lo (rmul omega2 hi)) = lo ∧
    crtHi (radd lo (rmul omega1 hi)) (radd lo (rmul omega2 hi)) = hi) ∧
    (∀ u : Elt, crtLo u (rconj u) = ⟨u.a, 0⟩ ∧ crtHi u (rconj u) = ⟨u.b, 0⟩)

/-- Derived in the spec (R119 from R112 to R117): for every power of three the recursive multiplier (two twisted passes, CRT, assembly) equals the schoolbook product
modulo `x^n − ω`, whose coefficient `i` is the printed sum; it is commutative and R-bilinear, and `[1_R, 0_R, …]` is its unit. -/
def Obligations.RecursiveMultiplierEqualsSchoolbook : Prop :=
  ∀ (k : Nat) (a b : Block), a.length = 3 ^ k → b.length = 3 ^ k →
    mulmod a b = school a b ∧ (mulmod a b).length = 3 ^ k ∧
      (∀ i, i < 3 ^ k → (mulmod a b).at i =
        radd (rsum ((List.range (i + 1)).map fun j => rmul (a.at j) (b.at (i - j))))
          (rmul omega1 (rsum ((List.range (3 ^ k - 1 - i)).map fun j => rmul (a.at (i + 1 + j)) (b.at (3 ^ k - 1 - j)))))) ∧
      mulmod a b = mulmod b a ∧ mulmod a (rone :: List.replicate (3 ^ k - 1) rzero) = a ∧
      (∀ a' : Block, a'.length = 3 ^ k → mulmod (badd a a') b = badd (mulmod a b) (mulmod a' b)) ∧
      (∀ c : Elt, mulmod (a.map (rmul c)) b = (mulmod a b).map (rmul c))

/-- Derived in the spec (R137 from R132 to R135 and R119), and the contract R131: the driver computes the cyclic convolution modulo 2^64. It is commutative and bilinear, and
`[1, 0, …, 0]` is its unit. -/
def Obligations.DriverComputesTheCyclicConvolution : Prop :=
  ∀ (k : Nat) (a b : List Word), a.length = 3 ^ k → b.length = 3 ^ k →
    cconv a b = cyclicSum a b ∧ cconv a b = cconv b a ∧ cconv a (1 :: List.replicate (3 ^ k - 1) 0) = a ∧
      (∀ a' : List Word, a'.length = 3 ^ k →
        cconv (List.zipWith (· + ·) a a') b = List.zipWith (· + ·) (cconv a b) (cconv a' b)) ∧
      (∀ c : Word, cconv (a.map (c * ·)) b = (cconv a b).map (c * ·))

/-- R140, whose closed form is derived in the spec (from R137): the public multiply pads, convolves and truncates; it gives exactly the `lenA + lenB − 1` true coefficients modulo 2^64, and the words of the padded
convolution behind them are all 0. -/
def Obligations.PublicMultiplyGivesTheTrueProduct : Prop :=
  ∀ p q : List Word, 1 ≤ p.length → 1 ≤ q.length →
    pmul p q = (cconv (padTo p (pow3Ceil (p.length + q.length - 1)))
        (padTo q (pow3Ceil (p.length + q.length - 1)))).take (p.length + q.length - 1) ∧
      pmul p q = polySum p q ∧
      ∀ i, p.length + q.length - 1 ≤ i →
        (cconv (padTo p (pow3Ceil (p.length + q.length - 1))) (padTo q (pow3Ceil (p.length + q.length - 1)))).getD i 0 = 0

/-- R110, R130 and R139, with tables that are derived in the spec: the multiplier's split is the smallest power of three `m` with `m² ≥ n` and has `r ≤ m`, `r ∣ m`; the
driver's is the largest with `m² ≤ n` and has `r = m` or `r = 3m`; the padded size is the smallest power of three that is large
enough; the printed tables. -/
def Obligations.SplitsAndPaddedSizeAreAsTheRulesSay : Prop :=
  (∀ k, (∃ j, mUp (3 ^ k) = 3 ^ j) ∧ 3 ^ k ≤ mUp (3 ^ k) * mUp (3 ^ k) ∧
      (∀ j, 3 ^ k ≤ 3 ^ j * 3 ^ j → mUp (3 ^ k) ≤ 3 ^ j) ∧ 3 ^ k / mUp (3 ^ k) ∣ mUp (3 ^ k)) ∧
    (∀ k, (∃ j, mDn (3 ^ k) = 3 ^ j) ∧ mDn (3 ^ k) * mDn (3 ^ k) ≤ 3 ^ k ∧
      (∀ j, 3 ^ j * 3 ^ j ≤ 3 ^ k → 3 ^ j ≤ mDn (3 ^ k)) ∧
      3 ^ k / mDn (3 ^ k) = (if k % 2 = 0 then mDn (3 ^ k) else 3 * mDn (3 ^ k))) ∧
    (∀ v, 1 ≤ v → (∃ j, pow3Ceil v = 3 ^ j) ∧ v ≤ pow3Ceil v ∧ ∀ j, v ≤ 3 ^ j → pow3Ceil v ≤ 3 ^ j) ∧
    [81, 243, 729, 2187, 6561, 19683, 1594323].map mUp = [9, 27, 27, 81, 81, 243, 2187] ∧
    [1, 3, 9, 27, 81, 243, 729, 2187, 1594323].map mDn = [1, 1, 3, 3, 9, 9, 27, 27, 729] ∧
    [1, 2, 3, 4, 9, 999999].map pow3Ceil = [1, 3, 3, 9, 9, 1594323]

/-- R96, R118 and R136: the arena needs, as recursive rules and as the printed tables. -/
def Obligations.ArenaNeedsAreAsTheRulesSay : Prop :=
  (∀ r m, needFft r m = if r = 1 then 0 else 3 * m) ∧ (∀ n, n ≤ 27 → needMul n = 0) ∧
    (∀ k, 27 < 3 ^ k → needMul (3 ^ k) = 4 * 3 ^ k + 3 * mUp (3 ^ k) + needMul (mUp (3 ^ k))) ∧
    (∀ n, needCc n = 3 * n + 3 * mDn n + needMul (mDn n)) ∧
    [81, 243, 729, 2187, 6561, 19683].map needMul = [351, 1053, 2997, 9342, 26838, 80514] ∧
    [1, 3, 9, 27, 81, 243, 729, 2187, 6561, 19683, 1594323].map needCc =
      [6, 12, 36, 90, 270, 756, 2268, 6642, 20277, 59643, 4788153]

/-! ### Encoding (30_encoding.md) -/

/-- R50 to R59: every command, with every operand at every value its field admits, is read back from its descriptor. -/
def Obligations.DecodeAfterEncodeGivesTheCommandBack : Prop :=
  ∀ i : Instr, i.wf = true → decode (encode i) = .ok i

/-- The one spelling that R57 gives each command: a descriptor that decodes is the one spelling of a well-formed command. -/
def Obligations.EveryLegalDescriptorHasOneSpelling : Prop :=
  ∀ (d : Descriptor) (i : Instr), decode d = .ok i → i.wf = true ∧ encode i = d

/-- R52 to R56 against the machine-readable table: which descriptors are rejected, and by which name. -/
def Obligations.DecoderRejectsExactlyWhatTheTableDoes : Prop :=
  ∀ d : Descriptor,
    (decode d = .error .badOpcode ↔ ∀ row ∈ opcodeRows, descriptorBits d &&& 0xFF ≠ row.1) ∧
      (decode d = .error .badReserved ↔
        ∃ row ∈ opcodeRows, descriptorBits d &&& 0xFF = row.1 ∧ descriptorBits d &&& row.2 ≠ 0) ∧
      ((∃ i, decode d = .ok i) ↔ ∃ row ∈ opcodeRows, descriptorBits d &&& 0xFF = row.1 ∧ descriptorBits d &&& row.2 = 0)

/-- The worked encodings of 30_encoding.md section 5. -/
def Obligations.WorkedEncodingsDecode : Prop :=
  decode ⟨0x0000000300000020, 0x0000000000000009, 0x0000000400000000⟩ = .ok (.twid 9 0 3 4) ∧
    decode ⟨0x0000001B00000316, 0x0000001B0000001B, 0⟩ = .ok (.esc3 27 27 27 3) ∧
    decode ⟨0x0000000300000051, 0x0000000000000010, 0x0000000300000008⟩ = .ok (.pmul 16 0 3 8 3)

/-! ### The step (45_control.md, 60_exceptions.md) -/

/-- R150: while RUN, with `CP < KM_SIZE`, the step runs the command that the descriptor at `CP` decodes to. -/
def Obligations.StepRunsTheDecodedCommand : Prop :=
  ∀ (s : State) (i : Instr), s.status = .run → s.cp.toNat < s.cfg.kmSize → decode (s.kmAt s.cp.toNat) = .ok i →
    step s = exec i s

/-- R150, R172: while `STATE ≠ RUN` the engine does nothing, so no second fault can occur before the first is cleared. -/
def Obligations.StoppedEngineDoesNothing : Prop :=
  ∀ s : State, s.status ≠ .run → step s = .next s

/-- R161, R170: a fetch at `CP ≥ KM_SIZE` takes `F_FETCH`: code 1, `FCP = CP`, `FINFO = 0`, nothing else. -/
def Obligations.FetchPastTheEndFaults : Prop :=
  ∀ s : State, s.status = .run → s.cfg.kmSize ≤ s.cp.toNat →
    step s = .next { s with status := .fault, fcode := 1, fcp := s.cp, finfo := 0 }

/-- R54, R162, R163 with R170: a descriptor whose opcode the table lacks takes `F_OPCODE`, one with a bit under its row's
`must_be_zero_mask` takes `F_RESERVED`; `FINFO` is its word `W0` and nothing else is done. -/
def Obligations.IllegalDescriptorsFault : Prop :=
  ∀ s : State, s.status = .run → s.cp.toNat < s.cfg.kmSize →
    ((∀ row ∈ opcodeRows, descriptorBits (s.kmAt s.cp.toNat) &&& 0xFF ≠ row.1) →
      step s = .next { s with status := .fault, fcode := 2, fcp := s.cp, finfo := (s.kmAt s.cp.toNat).w0 }) ∧
    ((∃ row ∈ opcodeRows, descriptorBits (s.kmAt s.cp.toNat) &&& 0xFF = row.1 ∧
        descriptorBits (s.kmAt s.cp.toNat) &&& row.2 ≠ 0) →
      step s = .next { s with status := .fault, fcode := 3, fcp := s.cp, finfo := (s.kmAt s.cp.toNat).w0 })

/-- R150, R153, R169: a step of a running engine either completes, and `CP` advances by 1 without wrapping, or takes a fault, which
writes `STATE` and the fault registers alone. There is no third outcome. -/
def Obligations.EveryRunningStepCompletesOrFaults : Prop :=
  ∀ s : State, s.status = .run → s.cfg.wf = true →
    ∃ t, step s = .next t ∧
      ((t.status = .fault ∧ t = { s with status := .fault, fcode := t.fcode, fcp := s.cp, finfo := t.finfo } ∧
          1 ≤ t.fcode.toNat ∧ t.fcode.toNat ≤ 7) ∨
        ((t.status = .run ∨ t.status = .halted) ∧ t.cp.toNat = s.cp.toNat + 1 ∧ t.cp.toNat ≤ s.cfg.kmSize ∧
          t.fcode = s.fcode ∧ t.fcp = s.fcp ∧ t.finfo = s.finfo))

/-! ### What each command does when its checks pass -/

/-- R151: the effect, the one encoding and the fault of every other descriptor with this opcode. -/
def Obligations.NopOnlyAdvances : Prop :=
  (∀ s : State, exec .nop s = .next { s with cp := s.cp + 1 }) ∧ decode ⟨0, 0, 0⟩ = .ok .nop ∧
    (∀ d : Descriptor, d.w0.setWidth 8 = 0x00#8 → d ≠ ⟨0, 0, 0⟩ → decode d = .error .badReserved)

/-- R152: the effect, `IRQ` afterwards, the one encoding and the fault of every other descriptor with this opcode. -/
def Obligations.HaltStopsTheEngine : Prop :=
  (∀ s : State, exec .halt s = .next { s with status := .halted, cp := s.cp + 1 } ∧
      State.irq { s with status := .halted, cp := s.cp + 1 } = s.irqEn.getLsbD 0) ∧ decode ⟨1, 0, 0⟩ = .ok .halt ∧
    (∀ d : Descriptor, d.w0.setWidth 8 = 0x01#8 → d ≠ ⟨1, 0, 0⟩ → decode d = .error .badReserved)

/-- R78 (with R70). -/
def Obligations.EaddAddsElementwise : Prop :=
  ∀ (s : State) (xd xs0 xs1 len : Nat), 1 ≤ len →
    xd + len ≤ s.cfg.xmSize → xs0 + len ≤ s.cfg.xmSize → xs1 + len ≤ s.cfg.xmSize →
    SameOrApart xd xs0 len → SameOrApart xd xs1 len →
    ∃ t, exec (.eadd xd xs0 xs1 len) s = .next t ∧ t = { s with xm := t.xm, cp := s.cp + 1 } ∧
      (∀ i, i < len → t.xmAt (xd + i) =
        ⟨(s.xmAt (xs0 + i)).a + (s.xmAt (xs1 + i)).a, (s.xmAt (xs0 + i)).b + (s.xmAt (xs1 + i)).b⟩) ∧
      (∀ e, ¬ (xd ≤ e ∧ e < xd + len) → t.xmAt e = s.xmAt e)

/-- R79 (with R71): SRC0 minus SRC1. -/
def Obligations.EsubSubtractsElementwise : Prop :=
  ∀ (s : State) (xd xs0 xs1 len : Nat), 1 ≤ len →
    xd + len ≤ s.cfg.xmSize → xs0 + len ≤ s.cfg.xmSize → xs1 + len ≤ s.cfg.xmSize →
    SameOrApart xd xs0 len → SameOrApart xd xs1 len →
    ∃ t, exec (.esub xd xs0 xs1 len) s = .next t ∧ t = { s with xm := t.xm, cp := s.cp + 1 } ∧
      (∀ i, i < len → t.xmAt (xd + i) =
        ⟨(s.xmAt (xs0 + i)).a - (s.xmAt (xs1 + i)).a, (s.xmAt (xs0 + i)).b - (s.xmAt (xs1 + i)).b⟩) ∧
      (∀ e, ¬ (xd ≤ e ∧ e < xd + len) → t.xmAt e = s.xmAt e)

/-- R81 (with R73): the point-wise product. -/
def Obligations.EmulMultipliesElementwise : Prop :=
  ∀ (s : State) (xd xs0 xs1 len : Nat), 1 ≤ len →
    xd + len ≤ s.cfg.xmSize → xs0 + len ≤ s.cfg.xmSize → xs1 + len ≤ s.cfg.xmSize →
    SameOrApart xd xs0 len → SameOrApart xd xs1 len →
    ∃ t, exec (.emul xd xs0 xs1 len) s = .next t ∧ t = { s with xm := t.xm, cp := s.cp + 1 } ∧
      (∀ i, i < len → t.xmAt (xd + i) =
        ⟨(s.xmAt (xs0 + i)).a * (s.xmAt (xs1 + i)).a - (s.xmAt (xs0 + i)).b * (s.xmAt (xs1 + i)).b,
          (s.xmAt (xs0 + i)).b * (s.xmAt (xs1 + i)).a + (s.xmAt (xs0 + i)).a * (s.xmAt (xs1 + i)).b -
            (s.xmAt (xs0 + i)).b * (s.xmAt (xs1 + i)).b⟩) ∧
      (∀ e, ¬ (xd ≤ e ∧ e < xd + len) → t.xmAt e = s.xmAt e)

/-- R80 (with R72). -/
def Obligations.EnegNegatesElementwise : Prop :=
  ∀ (s : State) (xd xs0 len : Nat), 1 ≤ len → xd + len ≤ s.cfg.xmSize → xs0 + len ≤ s.cfg.xmSize → SameOrApart xd xs0 len →
    ∃ t, exec (.eneg xd xs0 len) s = .next t ∧ t = { s with xm := t.xm, cp := s.cp + 1 } ∧
      (∀ i, i < len → t.xmAt (xd + i) = ⟨-(s.xmAt (xs0 + i)).a, -(s.xmAt (xs0 + i)).b⟩) ∧
      (∀ e, ¬ (xd ≤ e ∧ e < xd + len) → t.xmAt e = s.xmAt e)

/-- R82 (with R74). -/
def Obligations.EconjConjugatesElementwise : Prop :=
  ∀ (s : State) (xd xs0 len : Nat), 1 ≤ len → xd + len ≤ s.cfg.xmSize → xs0 + len ≤ s.cfg.xmSize → SameOrApart xd xs0 len →
    ∃ t, exec (.econj xd xs0 len) s = .next t ∧ t = { s with xm := t.xm, cp := s.cp + 1 } ∧
      (∀ i, i < len → t.xmAt (xd + i) = ⟨(s.xmAt (xs0 + i)).a - (s.xmAt (xs0 + i)).b, -(s.xmAt (xs0 + i)).b⟩) ∧
      (∀ e, ¬ (xd ≤ e ∧ e < xd + len) → t.xmAt e = s.xmAt e)

/-- R83 (with R75): CM words become XM elements with `b = 0`, bit for bit. -/
def Obligations.EembEmbedsWords : Prop :=
  ∀ (s : State) (xd cs0 len : Nat), 1 ≤ len → xd + len ≤ s.cfg.xmSize → cs0 + len ≤ s.cfg.cmSize →
    ∃ t, exec (.eemb xd cs0 len) s = .next t ∧ t = { s with xm := t.xm, cp := s.cp + 1 } ∧
      (∀ i, i < len → t.xmAt (xd + i) = ⟨s.cmAt (cs0 + i), 0⟩) ∧
      (∀ e, ¬ (xd ≤ e ∧ e < xd + len) → t.xmAt e = s.xmAt e)

/-- R84 (with R76): the scaling by INV3^K, the power as the ring of words has it; `K = 0` copies (R60). -/
def Obligations.Esc3ScalesElementwise : Prop :=
  ∀ (s : State) (xd xs0 len k : Nat), 1 ≤ len → xd + len ≤ s.cfg.xmSize → xs0 + len ≤ s.cfg.xmSize → SameOrApart xd xs0 len →
    ∃ t, exec (.esc3 xd xs0 len k) s = .next t ∧ t = { s with xm := t.xm, cp := s.cp + 1 } ∧
      (∀ i, i < len → t.xmAt (xd + i) = ⟨(s.xmAt (xs0 + i)).a * inv3 ^ k, (s.xmAt (xs0 + i)).b * inv3 ^ k⟩) ∧
      (k = 0 → ∀ i, i < len → t.xmAt (xd + i) = s.xmAt (xs0 + i)) ∧
      (∀ e, ¬ (xd ≤ e ∧ e < xd + len) → t.xmAt e = s.xmAt e)

/-- R88 with R85 spelt out: element `j` of the destination. -/
def Obligations.TwidRotatesTheBuffer : Prop :=
  ∀ (s : State) (xd xs0 a sh : Nat), sh ≤ 3 * 3 ^ a → xd + 3 ^ a ≤ s.cfg.xmSize → xs0 + 3 ^ a ≤ s.cfg.xmSize →
    Apart xd (3 ^ a) xs0 (3 ^ a) →
    ∃ t, exec (.twid xd xs0 (3 ^ a) sh) s = .next t ∧ t = { s with xm := t.xm, cp := s.cp + 1 } ∧
      (∀ j, j < 3 ^ a → t.xmAt (xd + j) =
        if sh % 3 ^ a ≤ j then rwpow (s.xmAt (xs0 + (j - sh % 3 ^ a))) (sh / 3 ^ a)
        else rwpow (s.xmAt (xs0 + (j + 3 ^ a - sh % 3 ^ a))) (sh / 3 ^ a + 1)) ∧
      (∀ e, ¬ (xd ≤ e ∧ e < xd + 3 ^ a) → t.xmAt e = s.xmAt e)

/-- R97 with R46: the buffer becomes the forward transform of its blocks, the clobber range holds ANY of a fresh draw (log 3), and no
other element changes. -/
def Obligations.Fft3TransformsInPlace : Prop :=
  ∀ (s : State) (xd L a : Nat), 3 ^ L ≤ 3 * 3 ^ a → xd + 3 ^ L * 3 ^ a ≤ s.cfg.xmSize →
    ArenaGranted s (needFft (3 ^ L) (3 ^ a)) → ArenaClear s (needFft (3 ^ L) (3 ^ a)) xd (3 ^ L * 3 ^ a) → 1 ≤ s.draws →
    ∃ t, exec (.fft3 xd (3 ^ L) (3 ^ a)) s = .next t ∧
      t = { s with xm := t.xm, cp := s.cp + 1, draws := t.draws } ∧ s.draws ≤ t.draws ∧
      (∀ j i, j < 3 ^ L → i < 3 ^ a →
        t.xmAt (xd + j * 3 ^ a + i) = (blockAt (fft3 (blocksAt s xd (3 ^ L) (3 ^ a)) (3 ^ a)) j).at i) ∧
      (∀ e, InArena s (needFft (3 ^ L) (3 ^ a)) e → t.xm.get e = .any s.draws) ∧
      (∀ e, ¬ (xd ≤ e ∧ e < xd + 3 ^ L * 3 ^ a) → ¬ InArena s (needFft (3 ^ L) (3 ^ a)) e → t.xmAt e = s.xmAt e)

/-- R102 with R46 (log 3): the same for the inverse transform. -/
def Obligations.Ifft3TransformsInPlace : Prop :=
  ∀ (s : State) (xd L a : Nat), 3 ^ L ≤ 3 * 3 ^ a → xd + 3 ^ L * 3 ^ a ≤ s.cfg.xmSize →
    ArenaGranted s (needFft (3 ^ L) (3 ^ a)) → ArenaClear s (needFft (3 ^ L) (3 ^ a)) xd (3 ^ L * 3 ^ a) → 1 ≤ s.draws →
    ∃ t, exec (.ifft3 xd (3 ^ L) (3 ^ a)) s = .next t ∧
      t = { s with xm := t.xm, cp := s.cp + 1, draws := t.draws } ∧ s.draws ≤ t.draws ∧
      (∀ j i, j < 3 ^ L → i < 3 ^ a →
        t.xmAt (xd + j * 3 ^ a + i) = (blockAt (ifft3 (blocksAt s xd (3 ^ L) (3 ^ a)) (3 ^ a)) j).at i) ∧
      (∀ e, InArena s (needFft (3 ^ L) (3 ^ a)) e → t.xm.get e = .any s.draws) ∧
      (∀ e, ¬ (xd ≤ e ∧ e < xd + 3 ^ L * 3 ^ a) → ¬ InArena s (needFft (3 ^ L) (3 ^ a)) e → t.xmAt e = s.xmAt e)

/-- R120 with R46 (log 3): the destination becomes the product modulo `x^n − ω` of the two source buffers as they stood. -/
def Obligations.MulmodWritesTheProduct : Prop :=
  ∀ (s : State) (xd xs0 xs1 k : Nat),
    xd + 3 ^ k ≤ s.cfg.xmSize → xs0 + 3 ^ k ≤ s.cfg.xmSize → xs1 + 3 ^ k ≤ s.cfg.xmSize →
    ArenaGranted s (needMul (3 ^ k)) → Apart xd (3 ^ k) xs0 (3 ^ k) → Apart xd (3 ^ k) xs1 (3 ^ k) →
    ArenaClear s (needMul (3 ^ k)) xd (3 ^ k) → ArenaClear s (needMul (3 ^ k)) xs0 (3 ^ k) →
    ArenaClear s (needMul (3 ^ k)) xs1 (3 ^ k) → 1 ≤ s.draws →
    ∃ t, exec (.mulmod xd xs0 xs1 (3 ^ k)) s = .next t ∧
      t = { s with xm := t.xm, cp := s.cp + 1, draws := t.draws } ∧ s.draws ≤ t.draws ∧
      (∀ i, i < 3 ^ k → t.xmAt (xd + i) = (mulmod (s.readXm xs0 (3 ^ k)) (s.readXm xs1 (3 ^ k))).at i) ∧
      (∀ e, InArena s (needMul (3 ^ k)) e → t.xm.get e = .any s.draws) ∧
      (∀ e, ¬ (xd ≤ e ∧ e < xd + 3 ^ k) → ¬ InArena s (needMul (3 ^ k)) e → t.xmAt e = s.xmAt e)

/-- R138 with R46 (log 3) and R47: the destination in CM becomes the driver's result on the two sources as they stood, whatever the overlap;
XM changes in the clobber range alone. -/
def Obligations.CconvWritesTheConvolution : Prop :=
  ∀ (s : State) (cd cs0 cs1 k : Nat),
    cd + 3 ^ k ≤ s.cfg.cmSize → cs0 + 3 ^ k ≤ s.cfg.cmSize → cs1 + 3 ^ k ≤ s.cfg.cmSize →
    ArenaGranted s (needCc (3 ^ k)) → 1 ≤ s.draws →
    ∃ t, exec (.cconv cd cs0 cs1 (3 ^ k)) s = .next t ∧
      t = { s with xm := t.xm, cm := t.cm, cp := s.cp + 1, draws := t.draws } ∧ s.draws ≤ t.draws ∧
      (∀ i, i < 3 ^ k → t.cmAt (cd + i) = wordAt (cconv (s.readCm cs0 (3 ^ k)) (s.readCm cs1 (3 ^ k))) i) ∧
      (∀ w, ¬ (cd ≤ w ∧ w < cd + 3 ^ k) → t.cmAt w = s.cmAt w) ∧
      (∀ e, InArena s (needCc (3 ^ k)) e → t.xm.get e = .any s.draws) ∧
      (∀ e, ¬ InArena s (needCc (3 ^ k)) e → t.xmAt e = s.xmAt e)

/-- R142 with R46 (log 3) and R47: the `lenA + lenB − 1` words of the product, and no word behind them. -/
def Obligations.PmulWritesTheProduct : Prop :=
  ∀ (s : State) (cd cs0 la cs1 lb : Nat), 1 ≤ la → 1 ≤ lb →
    cd + (la + lb - 1) ≤ s.cfg.cmSize → cs0 + la ≤ s.cfg.cmSize → cs1 + lb ≤ s.cfg.cmSize →
    ArenaGranted s (needCc (pow3Ceil (la + lb - 1))) → 1 ≤ s.draws →
    ∃ t, exec (.pmul cd cs0 la cs1 lb) s = .next t ∧
      t = { s with xm := t.xm, cm := t.cm, cp := s.cp + 1, draws := t.draws } ∧ s.draws ≤ t.draws ∧
      (∀ i, i < la + lb - 1 → t.cmAt (cd + i) = wordAt (pmul (s.readCm cs0 la) (s.readCm cs1 lb)) i) ∧
      (∀ w, ¬ (cd ≤ w ∧ w < cd + (la + lb - 1)) → t.cmAt w = s.cmAt w) ∧
      (∀ e, InArena s (needCc (pow3Ceil (la + lb - 1))) e → t.xm.get e = .any s.draws) ∧
      (∀ e, ¬ InArena s (needCc (pow3Ceil (la + lb - 1))) e → t.xmAt e = s.xmAt e)

/-! ### Where each command takes a fault (R164 to R168): the first failing check in code order

`FINFO` is the word `W0` of the command's one descriptor (log 9). -/

/-- R164, R165, R167, R168 for the element-wise commands over XM (R78 to R82, R84). -/
def Obligations.ElementwiseFaultsInCodeOrder : Prop :=
  (∀ (s : State) (xd xs0 xs1 len : Nat) (i : Instr),
    i = .eadd xd xs0 xs1 len ∨ i = .esub xd xs0 xs1 len ∨ i = .emul xd xs0 xs1 len →
    (len = 0 → exec i s = .next (trapState 4 i s)) ∧
    (len ≠ 0 → s.cfg.xmSize < xd + len ∨ s.cfg.xmSize < xs0 + len ∨ s.cfg.xmSize < xs1 + len →
      exec i s = .next (trapState 5 i s)) ∧
    (len ≠ 0 → xd + len ≤ s.cfg.xmSize → xs0 + len ≤ s.cfg.xmSize → xs1 + len ≤ s.cfg.xmSize →
      ¬ (SameOrApart xd xs0 len ∧ SameOrApart xd xs1 len) → exec i s = .next (trapState 7 i s))) ∧
  (∀ (s : State) (xd xs0 len k : Nat) (i : Instr),
    i = .eneg xd xs0 len ∨ i = .econj xd xs0 len ∨ i = .esc3 xd xs0 len k →
    (len = 0 → exec i s = .next (trapState 4 i s)) ∧
    (len ≠ 0 → s.cfg.xmSize < xd + len ∨ s.cfg.xmSize < xs0 + len → exec i s = .next (trapState 5 i s)) ∧
    (len ≠ 0 → xd + len ≤ s.cfg.xmSize → xs0 + len ≤ s.cfg.xmSize → ¬ SameOrApart xd xs0 len →
      exec i s = .next (trapState 7 i s)))

/-- R164, R165, R167, R168 for `EEMB` (R83) and `TWID` (R88). -/
def Obligations.EembAndTwidFaultInCodeOrder : Prop :=
  (∀ (s : State) (xd cs0 len : Nat),
    (len = 0 → exec (.eemb xd cs0 len) s = .next (trapState 4 (.eemb xd cs0 len) s)) ∧
    (len ≠ 0 → s.cfg.xmSize < xd + len ∨ s.cfg.cmSize < cs0 + len →
      exec (.eemb xd cs0 len) s = .next (trapState 5 (.eemb xd cs0 len) s))) ∧
  (∀ (s : State) (xd xs0 m sh : Nat),
    ((¬ ∃ k, m = 3 ^ k) ∨ 3 * m < sh → exec (.twid xd xs0 m sh) s = .next (trapState 4 (.twid xd xs0 m sh) s)) ∧
    ((∃ k, m = 3 ^ k) → sh ≤ 3 * m → s.cfg.xmSize < xd + m ∨ s.cfg.xmSize < xs0 + m →
      exec (.twid xd xs0 m sh) s = .next (trapState 5 (.twid xd xs0 m sh) s)) ∧
    ((∃ k, m = 3 ^ k) → sh ≤ 3 * m → xd + m ≤ s.cfg.xmSize → xs0 + m ≤ s.cfg.xmSize → ¬ Apart xd m xs0 m →
      exec (.twid xd xs0 m sh) s = .next (trapState 7 (.twid xd xs0 m sh) s)))

/-- R164 to R168 for `FFT3` and `IFFT3` (R97, R102). -/
def Obligations.TransformsFaultInCodeOrder : Prop :=
  ∀ (s : State) (xd r m : Nat) (i : Instr), i = .fft3 xd r m ∨ i = .ifft3 xd r m →
    ((¬ ∃ k, r = 3 ^ k) ∨ (¬ ∃ k, m = 3 ^ k) ∨ 3 * m < r → exec i s = .next (trapState 4 i s)) ∧
    ((∃ k, r = 3 ^ k) → (∃ k, m = 3 ^ k) → r ≤ 3 * m → s.cfg.xmSize < xd + r * m → exec i s = .next (trapState 5 i s)) ∧
    ((∃ k, r = 3 ^ k) → (∃ k, m = 3 ^ k) → r ≤ 3 * m → xd + r * m ≤ s.cfg.xmSize → ¬ ArenaGranted s (needFft r m) →
      exec i s = .next (trapState 6 i s)) ∧
    ((∃ k, r = 3 ^ k) → (∃ k, m = 3 ^ k) → r ≤ 3 * m → xd + r * m ≤ s.cfg.xmSize → ArenaGranted s (needFft r m) →
      ¬ ArenaClear s (needFft r m) xd (r * m) → exec i s = .next (trapState 7 i s))

/-- R164 to R168 for `MULMOD` (R120). -/
def Obligations.MulmodFaultsInCodeOrder : Prop :=
  ∀ (s : State) (xd xs0 xs1 n : Nat),
    ((¬ ∃ k, n = 3 ^ k) → exec (.mulmod xd xs0 xs1 n) s = .next (trapState 4 (.mulmod xd xs0 xs1 n) s)) ∧
    ((∃ k, n = 3 ^ k) → s.cfg.xmSize < xd + n ∨ s.cfg.xmSize < xs0 + n ∨ s.cfg.xmSize < xs1 + n →
      exec (.mulmod xd xs0 xs1 n) s = .next (trapState 5 (.mulmod xd xs0 xs1 n) s)) ∧
    ((∃ k, n = 3 ^ k) → xd + n ≤ s.cfg.xmSize → xs0 + n ≤ s.cfg.xmSize → xs1 + n ≤ s.cfg.xmSize →
      ¬ ArenaGranted s (needMul n) → exec (.mulmod xd xs0 xs1 n) s = .next (trapState 6 (.mulmod xd xs0 xs1 n) s)) ∧
    ((∃ k, n = 3 ^ k) → xd + n ≤ s.cfg.xmSize → xs0 + n ≤ s.cfg.xmSize → xs1 + n ≤ s.cfg.xmSize →
      ArenaGranted s (needMul n) →
      ¬ (Apart xd n xs0 n ∧ Apart xd n xs1 n ∧ ArenaClear s (needMul n) xd n ∧ ArenaClear s (needMul n) xs0 n ∧
        ArenaClear s (needMul n) xs1 n) →
      exec (.mulmod xd xs0 xs1 n) s = .next (trapState 7 (.mulmod xd xs0 xs1 n) s))

/-- R164, R165, R166, R168 for `CCONV` (R138) and `PMUL` (R142), both of class FREE. -/
def Obligations.ConvolutionsFaultInCodeOrder : Prop :=
  (∀ (s : State) (cd cs0 cs1 n : Nat),
    ((¬ ∃ k, n = 3 ^ k) → exec (.cconv cd cs0 cs1 n) s = .next (trapState 4 (.cconv cd cs0 cs1 n) s)) ∧
    ((∃ k, n = 3 ^ k) → s.cfg.cmSize < cd + n ∨ s.cfg.cmSize < cs0 + n ∨ s.cfg.cmSize < cs1 + n →
      exec (.cconv cd cs0 cs1 n) s = .next (trapState 5 (.cconv cd cs0 cs1 n) s)) ∧
    ((∃ k, n = 3 ^ k) → cd + n ≤ s.cfg.cmSize → cs0 + n ≤ s.cfg.cmSize → cs1 + n ≤ s.cfg.cmSize →
      ¬ ArenaGranted s (needCc n) → exec (.cconv cd cs0 cs1 n) s = .next (trapState 6 (.cconv cd cs0 cs1 n) s))) ∧
  (∀ (s : State) (cd cs0 la cs1 lb : Nat),
    (la = 0 ∨ lb = 0 → exec (.pmul cd cs0 la cs1 lb) s = .next (trapState 4 (.pmul cd cs0 la cs1 lb) s)) ∧
    (la ≠ 0 → lb ≠ 0 →
      s.cfg.cmSize < cd + (la + lb - 1) ∨ s.cfg.cmSize < cs0 + la ∨ s.cfg.cmSize < cs1 + lb →
      exec (.pmul cd cs0 la cs1 lb) s = .next (trapState 5 (.pmul cd cs0 la cs1 lb) s)) ∧
    (la ≠ 0 → lb ≠ 0 → cd + (la + lb - 1) ≤ s.cfg.cmSize → cs0 + la ≤ s.cfg.cmSize → cs1 + lb ≤ s.cfg.cmSize →
      ¬ ArenaGranted s (needCc (pow3Ceil (la + lb - 1))) →
      exec (.pmul cd cs0 la cs1 lb) s = .next (trapState 6 (.pmul cd cs0 la cs1 lb) s)))

/-! ### Whole-machine rules -/

/-- R14, R15, R16, R48, R156: no command writes KM or a host register, `CCONV` and `PMUL` alone write CM, and `NOP` and `HALT` leave
XM alone. -/
def Obligations.NoCommandWritesWhatItMayNot : Prop :=
  ∀ (i : Instr) (s t : State), exec i s = .next t →
    t.cfg = s.cfg ∧ t.km = s.km ∧ t.arenaBase = s.arenaBase ∧ t.arenaSize = s.arenaSize ∧ t.irqEn = s.irqEn ∧
      t.epoch = s.epoch ∧ (i.op ≠ .cconv → i.op ≠ .pmul → t.cm = s.cm) ∧ (i.op = .nop ∨ i.op = .halt → t.xm = s.xm)

/-- R23: the transitions of `STATE`, by a step and by an act from outside (a `CTRL` write with both strobes makes two of them, R155,
log 25). That an act past the end of a memory region leaves it is the model's choice (log 11). -/
def Obligations.StateMovesOnlyAlongItsTransitions : Prop :=
  (∀ s t : State, step s = .next t →
    t.status = s.status ∨ (s.status = .run ∧ (t.status = .halted ∨ t.status = .fault))) ∧
  (∀ s t : State, step s = .next t → s.status = .run → t.status = .halted →
    s.cp.toNat < s.cfg.kmSize ∧ decode (s.kmAt s.cp.toNat) = .ok .halt) ∧
  (∀ (a : HostAct) (s : State), a ≠ .reset → (hostAct a s).status = s.status ∨
    (s.status = .idle ∧ (hostAct a s).status = .run) ∨
    (s.status = .halted ∧ ((hostAct a s).status = .run ∨ (hostAct a s).status = .idle)) ∨
    (s.status = .fault ∧ (hostAct a s).status = .idle) ∨
    (s.status = .fault ∧ (hostAct a s).status = .run ∧
      ∃ v : Word, a = .write .csr 0 v ∧ v.getLsbD 0 = true ∧ v.getLsbD 1 = true)) ∧
  (∀ s : State, (hostAct .reset s).status = .idle)

/-- R46: a command with `NEED = 0` does not look at `ARENA_BASE` or `ARENA_SIZE`. -/
def Obligations.CommandsWithoutNeedIgnoreTheArena : Prop :=
  ∀ (i : Instr) (s t : State) (b : BitVec 32) (z : BitVec 33),
    (match i with
      | .fft3 _ r m => needFft r m = 0
      | .ifft3 _ r m => needFft r m = 0
      | .mulmod _ _ _ n => needMul n = 0
      | .cconv _ _ _ _ => False
      | .pmul _ _ _ _ _ => False
      | _ => True) →
    exec i s = .next t →
    exec i { s with arenaBase := b, arenaSize := z } = .next { t with arenaBase := b, arenaSize := z }

/-- The invariant of the machine is kept by every step, from every state that has it, reached or not (R4, R14 to R16, R23, R27, R29,
R42, R46). The form of a memory and the draws are the model's (log 3, log 4). -/
def Obligations.EveryStepKeepsTheInvariant : Prop :=
  ∀ s t : State, s.inv = true → step s = .next t → t.inv = true

/-- The same for every act of the host and the platform (R45, R154 to R156, R191; log 10, log 11), so for every interleaving of the two agents. -/
def Obligations.EveryOutsideActKeepsTheInvariant : Prop :=
  (∀ (a : HostAct) (s : State), s.inv = true → (hostAct a s).inv = true) ∧
    (∀ (es : List Event) (s t : State), s.inv = true → runEvents es s = .next t → t.inv = true)

/-- The invariant holds after reset, for every instance whose sizes obey R4 and for the instance of `State.reset`. The instance is the
model's choice (log 1). -/
def Obligations.ResetHasTheInvariant : Prop :=
  (∀ c : Config, c.wf = true → (State.resetOf c).inv = true) ∧ State.reset.inv = true

/-- R32, R191: what reset leaves, in any state and also while running, and what the first state is: every CSR 0, `STATE` IDLE, `IRQ`
low, and in every memory unit ANY. -/
def Obligations.ResetLeavesTheResetState : Prop :=
  (∀ s : State, (platformReset s).status = .idle ∧ (platformReset s).cp = 0 ∧ (platformReset s).arenaBase = 0 ∧
    (platformReset s).arenaSize = 0 ∧ (platformReset s).fcode = 0 ∧ (platformReset s).fcp = 0 ∧ (platformReset s).finfo = 0 ∧
    (platformReset s).irqEn = 0 ∧ (platformReset s).irq = false ∧ csrRead 0 (platformReset s) = 0 ∧
    (∀ e, ∃ k, (platformReset s).xm.get e = .any k) ∧ (∀ w, ∃ k, (platformReset s).cm.get w = .any k) ∧
    (∀ c, ∃ k, (platformReset s).km.get c = .any k)) ∧
  (State.reset.status = .idle ∧ State.reset.cp = 0 ∧ State.reset.arenaBase = 0 ∧ State.reset.arenaSize = 0 ∧
    State.reset.fcode = 0 ∧ State.reset.fcp = 0 ∧ State.reset.finfo = 0 ∧ State.reset.irqEn = 0 ∧ State.reset.irq = false ∧
    (∀ e, ∃ k, State.reset.xm.get e = .any k) ∧ (∀ w, ∃ k, State.reset.cm.get w = .any k) ∧
    (∀ c, ∃ k, State.reset.km.get c = .any k))

/-- The model's own counters (log 3, log 11, log 12) keep every draw of ANY apart from the earlier ones: within an epoch the number of the next draw
never falls, a step leaves no new ANY but of the next draw, which it then has passed, and only reset begins an epoch. -/
def Obligations.DrawsOfAnyAreNeverReused : Prop :=
  (∀ s t : State, step s = .next t → t.epoch = s.epoch ∧ t.cfg = s.cfg ∧ s.draws ≤ t.draws ∧
    (1 ≤ s.draws → ∀ e k, t.xm.get e = .any k → s.xm.get e = .any k ∨ (k = s.draws ∧ s.draws < t.draws)) ∧
    (∀ w k, t.cm.get w = .any k → s.cm.get w = .any k)) ∧
  (∀ (a : HostAct) (s : State), a ≠ .reset →
    (hostAct a s).epoch = s.epoch ∧ (hostAct a s).cfg = s.cfg ∧ s.draws ≤ (hostAct a s).draws) ∧
  (∀ s : State, (platformReset s).epoch = s.epoch + 1 ∧ (platformReset s).cfg = s.cfg ∧
    (∀ e, (platformReset s).xm.get e = .any 0) ∧ (∀ w, (platformReset s).cm.get w = .any 0) ∧
    (∀ c, (platformReset s).km.get c = .any 0) ∧ 0 < (platformReset s).draws)

/-- R157, R200: every run ends: from a running state at most `KM_SIZE − CP + 1` engine steps lead to `STATE ≠ RUN`. -/
def Obligations.EveryRunEnds : Prop :=
  ∀ s : State, s.cfg.wf = true → s.status = .run →
    ∃ (n : Nat) (t : State), n ≤ s.cfg.kmSize - s.cp.toNat + 1 ∧
      runEvents (List.replicate n .engine) s = .next t ∧ t.status ≠ .run

/-! ### The host port -/

/-- R22, R154, R155: `CTRL` reads 0; what a write to it does in each state, for each setting of the two strobes. -/
def Obligations.StartAndClearActAsTheRulesSay : Prop :=
  ∀ (s : State) (v : Word), hostRead .csr 0 s = (0, s) ∧
    (v.getLsbD 0 = false → v.getLsbD 1 = false → hostWrite .csr 0 v s = s) ∧
    (v.getLsbD 0 = true → v.getLsbD 1 = false →
      (s.status = .idle ∨ s.status = .halted → hostWrite .csr 0 v s = { s with status := .run }) ∧
      (s.status = .run ∨ s.status = .fault → hostWrite .csr 0 v s = s)) ∧
    (v.getLsbD 0 = false → v.getLsbD 1 = true →
      (s.status = .halted ∨ s.status = .fault →
        hostWrite .csr 0 v s = { s with status := .idle, fcode := 0, fcp := 0, finfo := 0 }) ∧
      (s.status = .idle ∨ s.status = .run → hostWrite .csr 0 v s = s)) ∧
    (v.getLsbD 0 = true → v.getLsbD 1 = true →
      (s.status = .halted ∨ s.status = .fault →
        hostWrite .csr 0 v s = { s with status := .run, fcode := 0, fcp := 0, finfo := 0 }) ∧
      (s.status = .idle → hostWrite .csr 0 v s = { s with status := .run }) ∧
      (s.status = .run → hostWrite .csr 0 v s = s))

/-- R21, R156 with the table of R23: what the CSR block reads, and what a write to each offset but `CTRL` changes. -/
def Obligations.CsrBlockReadsAndWrites : Prop :=
  ∀ (s : State) (v : Word),
    ((s.status = .idle → csrRead 1 s = 0) ∧ (s.status = .run → csrRead 1 s = 1) ∧
      (s.status = .halted → csrRead 1 s = 2) ∧ (s.status = .fault → csrRead 1 s = 3)) ∧
    (csrRead 0 s = 0 ∧ (csrRead 2 s).toNat = s.cp.toNat ∧
      (csrRead 3 s).toNat = s.arenaBase.toNat ∧ (csrRead 4 s).toNat = s.arenaSize.toNat ∧
      (csrRead 5 s).toNat = s.fcode.toNat ∧ (csrRead 6 s).toNat = s.fcp.toNat ∧ csrRead 7 s = s.finfo ∧
      (csrRead 8 s).toNat = s.irqEn.toNat ∧ ∀ off, 9 ≤ off → csrRead off s = 0) ∧
    (∀ off, hostRead .csr off s = (csrRead off s, s)) ∧
    (s.status ≠ .run →
      hostWrite .csr 2 v s = { s with cp := BitVec.ofNat 32 v.toNat } ∧
      hostWrite .csr 3 v s = { s with arenaBase := BitVec.ofNat 32 v.toNat } ∧
      hostWrite .csr 4 v s = { s with arenaSize := BitVec.ofNat 33 v.toNat }) ∧
    (s.status = .run → ∀ off, off = 2 ∨ off = 3 ∨ off = 4 → hostWrite .csr off v s = s) ∧
    hostWrite .csr 8 v s = { s with irqEn := BitVec.ofNat 2 v.toNat } ∧
    (∀ off, off = 1 ∨ 5 ≤ off → off ≠ 8 → hostWrite .csr off v s = s)

/-- R17, R45, R42: the layout of words in units; a host write to a memory region changes that memory alone, in any `STATE` and at any
offset (past the end of a region, where the spec is silent, by the model's choice, log 11); while the engine is stopped the host reads
back the word it wrote and no other word changes (for the other words of a unit that held ANY, log 19); while it runs, a write is
dropped, and a read returns ANY, a free value of a draw of its own, and has no effect on the engine (log 12). -/
def Obligations.HostMemoryPortObeysOwnership : Prop :=
  (∀ (s : State) (e w c : Nat),
    memWord .xm (2 * e) s = (s.xmAt e).a ∧ memWord .xm (2 * e + 1) s = (s.xmAt e).b ∧ memWord .cm w s = s.cmAt w ∧
      memWord .km (3 * c) s = (s.kmAt c).w0 ∧ memWord .km (3 * c + 1) s = (s.kmAt c).w1 ∧
      memWord .km (3 * c + 2) s = (s.kmAt c).w2) ∧
  ∀ (s : State) (r : Region) (off : Nat) (v : Word), r ≠ .csr →
    ((r = .xm → hostWrite r off v s = { s with xm := (hostWrite r off v s).xm }) ∧
      (r = .cm → hostWrite r off v s = { s with cm := (hostWrite r off v s).cm }) ∧
      (r = .km → hostWrite r off v s = { s with km := (hostWrite r off v s).km })) ∧
    (s.status ≠ .run → off < regionSize s.cfg r →
      hostRead r off (hostWrite r off v s) = (v, hostWrite r off v s) ∧
      (∀ r' off', r' ≠ .csr → (r', off') ≠ (r, off) → memWord r' off' (hostWrite r off v s) = memWord r' off' s) ∧
      hostRead r off s = (memWord r off s, s)) ∧
    (s.status = .run → hostWrite r off v s = s ∧
      (hostRead r off s).1 = Config.anyHostRead s.epoch s.draws ∧ (hostRead r off s).2 = { s with draws := s.draws + 1 })

/-- R31, R173: the level of `IRQ`, a function of `STATUS` and `IRQ_EN`; `CLEAR`, clearing the enable and reset lower it. -/
def Obligations.IrqIsAFunctionOfStatusAndEnables : Prop :=
  (∀ s : State, s.irq = true ↔
    (s.irqEn.getLsbD 0 = true ∧ s.status = .halted) ∨ (s.irqEn.getLsbD 1 = true ∧ s.status = .fault)) ∧
  (∀ s : State, (hostWrite .csr 0 2 s).irq = false ∧ (hostWrite .csr 8 0 s).irq = false ∧ (hostAct .reset s).irq = false ∧
    (s.status = .halted → (hostWrite .csr 0 1 s).irq = false))
end

