-- ==== Sys2Proof/Laws/State.lean ====
section
/-! SUPPORT. One lemma per field per update of the state, true by rfl, so that no proof unfolds a record update. -/

namespace Sys2Proof.Machine

section

variable (s : State)

@[simp] theorem State.setXm_cfg (m : Memory Elt) : (s.setXm m).cfg = s.cfg := rfl
@[simp] theorem State.setXm_status (m : Memory Elt) : (s.setXm m).status = s.status := rfl
@[simp] theorem State.setXm_cp (m : Memory Elt) : (s.setXm m).cp = s.cp := rfl
@[simp] theorem State.setXm_arenaBase (m : Memory Elt) : (s.setXm m).arenaBase = s.arenaBase := rfl
@[simp] theorem State.setXm_arenaSize (m : Memory Elt) : (s.setXm m).arenaSize = s.arenaSize := rfl
@[simp] theorem State.setXm_fcode (m : Memory Elt) : (s.setXm m).fcode = s.fcode := rfl
@[simp] theorem State.setXm_fcp (m : Memory Elt) : (s.setXm m).fcp = s.fcp := rfl
@[simp] theorem State.setXm_finfo (m : Memory Elt) : (s.setXm m).finfo = s.finfo := rfl
@[simp] theorem State.setXm_irqEn (m : Memory Elt) : (s.setXm m).irqEn = s.irqEn := rfl
@[simp] theorem State.setXm_xm (m : Memory Elt) : (s.setXm m).xm = m := rfl
@[simp] theorem State.setXm_cm (m : Memory Elt) : (s.setXm m).cm = s.cm := rfl
@[simp] theorem State.setXm_km (m : Memory Elt) : (s.setXm m).km = s.km := rfl
@[simp] theorem State.setXm_epoch (m : Memory Elt) : (s.setXm m).epoch = s.epoch := rfl
@[simp] theorem State.setXm_draws (m : Memory Elt) : (s.setXm m).draws = s.draws := rfl

@[simp] theorem State.setCm_cfg (m : Memory Word) : (s.setCm m).cfg = s.cfg := rfl
@[simp] theorem State.setCm_status (m : Memory Word) : (s.setCm m).status = s.status := rfl
@[simp] theorem State.setCm_cp (m : Memory Word) : (s.setCm m).cp = s.cp := rfl
@[simp] theorem State.setCm_arenaBase (m : Memory Word) : (s.setCm m).arenaBase = s.arenaBase := rfl
@[simp] theorem State.setCm_arenaSize (m : Memory Word) : (s.setCm m).arenaSize = s.arenaSize := rfl
@[simp] theorem State.setCm_fcode (m : Memory Word) : (s.setCm m).fcode = s.fcode := rfl
@[simp] theorem State.setCm_fcp (m : Memory Word) : (s.setCm m).fcp = s.fcp := rfl
@[simp] theorem State.setCm_finfo (m : Memory Word) : (s.setCm m).finfo = s.finfo := rfl
@[simp] theorem State.setCm_irqEn (m : Memory Word) : (s.setCm m).irqEn = s.irqEn := rfl
@[simp] theorem State.setCm_xm (m : Memory Word) : (s.setCm m).xm = s.xm := rfl
@[simp] theorem State.setCm_cm (m : Memory Word) : (s.setCm m).cm = m := rfl
@[simp] theorem State.setCm_km (m : Memory Word) : (s.setCm m).km = s.km := rfl
@[simp] theorem State.setCm_epoch (m : Memory Word) : (s.setCm m).epoch = s.epoch := rfl
@[simp] theorem State.setCm_draws (m : Memory Word) : (s.setCm m).draws = s.draws := rfl

@[simp] theorem State.setKm_cfg (m : Memory Descriptor) : (s.setKm m).cfg = s.cfg := rfl
@[simp] theorem State.setKm_status (m : Memory Descriptor) : (s.setKm m).status = s.status := rfl
@[simp] theorem State.setKm_cp (m : Memory Descriptor) : (s.setKm m).cp = s.cp := rfl
@[simp] theorem State.setKm_arenaBase (m : Memory Descriptor) : (s.setKm m).arenaBase = s.arenaBase := rfl
@[simp] theorem State.setKm_arenaSize (m : Memory Descriptor) : (s.setKm m).arenaSize = s.arenaSize := rfl
@[simp] theorem State.setKm_fcode (m : Memory Descriptor) : (s.setKm m).fcode = s.fcode := rfl
@[simp] theorem State.setKm_fcp (m : Memory Descriptor) : (s.setKm m).fcp = s.fcp := rfl
@[simp] theorem State.setKm_finfo (m : Memory Descriptor) : (s.setKm m).finfo = s.finfo := rfl
@[simp] theorem State.setKm_irqEn (m : Memory Descriptor) : (s.setKm m).irqEn = s.irqEn := rfl
@[simp] theorem State.setKm_xm (m : Memory Descriptor) : (s.setKm m).xm = s.xm := rfl
@[simp] theorem State.setKm_cm (m : Memory Descriptor) : (s.setKm m).cm = s.cm := rfl
@[simp] theorem State.setKm_km (m : Memory Descriptor) : (s.setKm m).km = m := rfl
@[simp] theorem State.setKm_epoch (m : Memory Descriptor) : (s.setKm m).epoch = s.epoch := rfl
@[simp] theorem State.setKm_draws (m : Memory Descriptor) : (s.setKm m).draws = s.draws := rfl

@[simp] theorem State.setStatus_cfg (r : RunState) : (s.setStatus r).cfg = s.cfg := rfl
@[simp] theorem State.setStatus_status (r : RunState) : (s.setStatus r).status = r := rfl
@[simp] theorem State.setStatus_cp (r : RunState) : (s.setStatus r).cp = s.cp := rfl
@[simp] theorem State.setStatus_arenaBase (r : RunState) : (s.setStatus r).arenaBase = s.arenaBase := rfl
@[simp] theorem State.setStatus_arenaSize (r : RunState) : (s.setStatus r).arenaSize = s.arenaSize := rfl
@[simp] theorem State.setStatus_fcode (r : RunState) : (s.setStatus r).fcode = s.fcode := rfl
@[simp] theorem State.setStatus_fcp (r : RunState) : (s.setStatus r).fcp = s.fcp := rfl
@[simp] theorem State.setStatus_finfo (r : RunState) : (s.setStatus r).finfo = s.finfo := rfl
@[simp] theorem State.setStatus_irqEn (r : RunState) : (s.setStatus r).irqEn = s.irqEn := rfl
@[simp] theorem State.setStatus_xm (r : RunState) : (s.setStatus r).xm = s.xm := rfl
@[simp] theorem State.setStatus_cm (r : RunState) : (s.setStatus r).cm = s.cm := rfl
@[simp] theorem State.setStatus_km (r : RunState) : (s.setStatus r).km = s.km := rfl
@[simp] theorem State.setStatus_epoch (r : RunState) : (s.setStatus r).epoch = s.epoch := rfl
@[simp] theorem State.setStatus_draws (r : RunState) : (s.setStatus r).draws = s.draws := rfl

@[simp] theorem State.setCp_cfg (v : BitVec 32) : (s.setCp v).cfg = s.cfg := rfl
@[simp] theorem State.setCp_status (v : BitVec 32) : (s.setCp v).status = s.status := rfl
@[simp] theorem State.setCp_cp (v : BitVec 32) : (s.setCp v).cp = v := rfl
@[simp] theorem State.setCp_arenaBase (v : BitVec 32) : (s.setCp v).arenaBase = s.arenaBase := rfl
@[simp] theorem State.setCp_arenaSize (v : BitVec 32) : (s.setCp v).arenaSize = s.arenaSize := rfl
@[simp] theorem State.setCp_fcode (v : BitVec 32) : (s.setCp v).fcode = s.fcode := rfl
@[simp] theorem State.setCp_fcp (v : BitVec 32) : (s.setCp v).fcp = s.fcp := rfl
@[simp] theorem State.setCp_finfo (v : BitVec 32) : (s.setCp v).finfo = s.finfo := rfl
@[simp] theorem State.setCp_irqEn (v : BitVec 32) : (s.setCp v).irqEn = s.irqEn := rfl
@[simp] theorem State.setCp_xm (v : BitVec 32) : (s.setCp v).xm = s.xm := rfl
@[simp] theorem State.setCp_cm (v : BitVec 32) : (s.setCp v).cm = s.cm := rfl
@[simp] theorem State.setCp_km (v : BitVec 32) : (s.setCp v).km = s.km := rfl
@[simp] theorem State.setCp_epoch (v : BitVec 32) : (s.setCp v).epoch = s.epoch := rfl
@[simp] theorem State.setCp_draws (v : BitVec 32) : (s.setCp v).draws = s.draws := rfl

@[simp] theorem State.setArenaBase_cfg (v : BitVec 32) : (s.setArenaBase v).cfg = s.cfg := rfl
@[simp] theorem State.setArenaBase_status (v : BitVec 32) : (s.setArenaBase v).status = s.status := rfl
@[simp] theorem State.setArenaBase_cp (v : BitVec 32) : (s.setArenaBase v).cp = s.cp := rfl
@[simp] theorem State.setArenaBase_arenaBase (v : BitVec 32) : (s.setArenaBase v).arenaBase = v := rfl
@[simp] theorem State.setArenaBase_arenaSize (v : BitVec 32) : (s.setArenaBase v).arenaSize = s.arenaSize := rfl
@[simp] theorem State.setArenaBase_fcode (v : BitVec 32) : (s.setArenaBase v).fcode = s.fcode := rfl
@[simp] theorem State.setArenaBase_fcp (v : BitVec 32) : (s.setArenaBase v).fcp = s.fcp := rfl
@[simp] theorem State.setArenaBase_finfo (v : BitVec 32) : (s.setArenaBase v).finfo = s.finfo := rfl
@[simp] theorem State.setArenaBase_irqEn (v : BitVec 32) : (s.setArenaBase v).irqEn = s.irqEn := rfl
@[simp] theorem State.setArenaBase_xm (v : BitVec 32) : (s.setArenaBase v).xm = s.xm := rfl
@[simp] theorem State.setArenaBase_cm (v : BitVec 32) : (s.setArenaBase v).cm = s.cm := rfl
@[simp] theorem State.setArenaBase_km (v : BitVec 32) : (s.setArenaBase v).km = s.km := rfl
@[simp] theorem State.setArenaBase_epoch (v : BitVec 32) : (s.setArenaBase v).epoch = s.epoch := rfl
@[simp] theorem State.setArenaBase_draws (v : BitVec 32) : (s.setArenaBase v).draws = s.draws := rfl

@[simp] theorem State.setArenaSize_cfg (v : BitVec 33) : (s.setArenaSize v).cfg = s.cfg := rfl
@[simp] theorem State.setArenaSize_status (v : BitVec 33) : (s.setArenaSize v).status = s.status := rfl
@[simp] theorem State.setArenaSize_cp (v : BitVec 33) : (s.setArenaSize v).cp = s.cp := rfl
@[simp] theorem State.setArenaSize_arenaBase (v : BitVec 33) : (s.setArenaSize v).arenaBase = s.arenaBase := rfl
@[simp] theorem State.setArenaSize_arenaSize (v : BitVec 33) : (s.setArenaSize v).arenaSize = v := rfl
@[simp] theorem State.setArenaSize_fcode (v : BitVec 33) : (s.setArenaSize v).fcode = s.fcode := rfl
@[simp] theorem State.setArenaSize_fcp (v : BitVec 33) : (s.setArenaSize v).fcp = s.fcp := rfl
@[simp] theorem State.setArenaSize_finfo (v : BitVec 33) : (s.setArenaSize v).finfo = s.finfo := rfl
@[simp] theorem State.setArenaSize_irqEn (v : BitVec 33) : (s.setArenaSize v).irqEn = s.irqEn := rfl
@[simp] theorem State.setArenaSize_xm (v : BitVec 33) : (s.setArenaSize v).xm = s.xm := rfl
@[simp] theorem State.setArenaSize_cm (v : BitVec 33) : (s.setArenaSize v).cm = s.cm := rfl
@[simp] theorem State.setArenaSize_km (v : BitVec 33) : (s.setArenaSize v).km = s.km := rfl
@[simp] theorem State.setArenaSize_epoch (v : BitVec 33) : (s.setArenaSize v).epoch = s.epoch := rfl
@[simp] theorem State.setArenaSize_draws (v : BitVec 33) : (s.setArenaSize v).draws = s.draws := rfl

@[simp] theorem State.setIrqEn_cfg (v : BitVec 2) : (s.setIrqEn v).cfg = s.cfg := rfl
@[simp] theorem State.setIrqEn_status (v : BitVec 2) : (s.setIrqEn v).status = s.status := rfl
@[simp] theorem State.setIrqEn_cp (v : BitVec 2) : (s.setIrqEn v).cp = s.cp := rfl
@[simp] theorem State.setIrqEn_arenaBase (v : BitVec 2) : (s.setIrqEn v).arenaBase = s.arenaBase := rfl
@[simp] theorem State.setIrqEn_arenaSize (v : BitVec 2) : (s.setIrqEn v).arenaSize = s.arenaSize := rfl
@[simp] theorem State.setIrqEn_fcode (v : BitVec 2) : (s.setIrqEn v).fcode = s.fcode := rfl
@[simp] theorem State.setIrqEn_fcp (v : BitVec 2) : (s.setIrqEn v).fcp = s.fcp := rfl
@[simp] theorem State.setIrqEn_finfo (v : BitVec 2) : (s.setIrqEn v).finfo = s.finfo := rfl
@[simp] theorem State.setIrqEn_irqEn (v : BitVec 2) : (s.setIrqEn v).irqEn = v := rfl
@[simp] theorem State.setIrqEn_xm (v : BitVec 2) : (s.setIrqEn v).xm = s.xm := rfl
@[simp] theorem State.setIrqEn_cm (v : BitVec 2) : (s.setIrqEn v).cm = s.cm := rfl
@[simp] theorem State.setIrqEn_km (v : BitVec 2) : (s.setIrqEn v).km = s.km := rfl
@[simp] theorem State.setIrqEn_epoch (v : BitVec 2) : (s.setIrqEn v).epoch = s.epoch := rfl
@[simp] theorem State.setIrqEn_draws (v : BitVec 2) : (s.setIrqEn v).draws = s.draws := rfl

@[simp] theorem State.bumpDraws_cfg : (s.bumpDraws).cfg = s.cfg := rfl
@[simp] theorem State.bumpDraws_status : (s.bumpDraws).status = s.status := rfl
@[simp] theorem State.bumpDraws_cp : (s.bumpDraws).cp = s.cp := rfl
@[simp] theorem State.bumpDraws_arenaBase : (s.bumpDraws).arenaBase = s.arenaBase := rfl
@[simp] theorem State.bumpDraws_arenaSize : (s.bumpDraws).arenaSize = s.arenaSize := rfl
@[simp] theorem State.bumpDraws_fcode : (s.bumpDraws).fcode = s.fcode := rfl
@[simp] theorem State.bumpDraws_fcp : (s.bumpDraws).fcp = s.fcp := rfl
@[simp] theorem State.bumpDraws_finfo : (s.bumpDraws).finfo = s.finfo := rfl
@[simp] theorem State.bumpDraws_irqEn : (s.bumpDraws).irqEn = s.irqEn := rfl
@[simp] theorem State.bumpDraws_xm : (s.bumpDraws).xm = s.xm := rfl
@[simp] theorem State.bumpDraws_cm : (s.bumpDraws).cm = s.cm := rfl
@[simp] theorem State.bumpDraws_km : (s.bumpDraws).km = s.km := rfl
@[simp] theorem State.bumpDraws_epoch : (s.bumpDraws).epoch = s.epoch := rfl
@[simp] theorem State.bumpDraws_draws : (s.bumpDraws).draws = s.draws + 1 := rfl

@[simp] theorem State.setFaultRegs_cfg (c : BitVec 4) (p : BitVec 32) (i : BitVec 64) : (s.setFaultRegs c p i).cfg = s.cfg := rfl
@[simp] theorem State.setFaultRegs_status (c : BitVec 4) (p : BitVec 32) (i : BitVec 64) : (s.setFaultRegs c p i).status = s.status := rfl
@[simp] theorem State.setFaultRegs_cp (c : BitVec 4) (p : BitVec 32) (i : BitVec 64) : (s.setFaultRegs c p i).cp = s.cp := rfl
@[simp] theorem State.setFaultRegs_arenaBase (c : BitVec 4) (p : BitVec 32) (i : BitVec 64) : (s.setFaultRegs c p i).arenaBase = s.arenaBase := rfl
@[simp] theorem State.setFaultRegs_arenaSize (c : BitVec 4) (p : BitVec 32) (i : BitVec 64) : (s.setFaultRegs c p i).arenaSize = s.arenaSize := rfl
@[simp] theorem State.setFaultRegs_fcode (c : BitVec 4) (p : BitVec 32) (i : BitVec 64) : (s.setFaultRegs c p i).fcode = c := rfl
@[simp] theorem State.setFaultRegs_fcp (c : BitVec 4) (p : BitVec 32) (i : BitVec 64) : (s.setFaultRegs c p i).fcp = p := rfl
@[simp] theorem State.setFaultRegs_finfo (c : BitVec 4) (p : BitVec 32) (i : BitVec 64) : (s.setFaultRegs c p i).finfo = i := rfl
@[simp] theorem State.setFaultRegs_irqEn (c : BitVec 4) (p : BitVec 32) (i : BitVec 64) : (s.setFaultRegs c p i).irqEn = s.irqEn := rfl
@[simp] theorem State.setFaultRegs_xm (c : BitVec 4) (p : BitVec 32) (i : BitVec 64) : (s.setFaultRegs c p i).xm = s.xm := rfl
@[simp] theorem State.setFaultRegs_cm (c : BitVec 4) (p : BitVec 32) (i : BitVec 64) : (s.setFaultRegs c p i).cm = s.cm := rfl
@[simp] theorem State.setFaultRegs_km (c : BitVec 4) (p : BitVec 32) (i : BitVec 64) : (s.setFaultRegs c p i).km = s.km := rfl
@[simp] theorem State.setFaultRegs_epoch (c : BitVec 4) (p : BitVec 32) (i : BitVec 64) : (s.setFaultRegs c p i).epoch = s.epoch := rfl
@[simp] theorem State.setFaultRegs_draws (c : BitVec 4) (p : BitVec 32) (i : BitVec 64) : (s.setFaultRegs c p i).draws = s.draws := rfl

@[simp] theorem State.advance_cfg : (s.advance).cfg = s.cfg := rfl
@[simp] theorem State.advance_status : (s.advance).status = s.status := rfl
@[simp] theorem State.advance_cp : (s.advance).cp = s.cp + 1 := rfl
@[simp] theorem State.advance_arenaBase : (s.advance).arenaBase = s.arenaBase := rfl
@[simp] theorem State.advance_arenaSize : (s.advance).arenaSize = s.arenaSize := rfl
@[simp] theorem State.advance_fcode : (s.advance).fcode = s.fcode := rfl
@[simp] theorem State.advance_fcp : (s.advance).fcp = s.fcp := rfl
@[simp] theorem State.advance_finfo : (s.advance).finfo = s.finfo := rfl
@[simp] theorem State.advance_irqEn : (s.advance).irqEn = s.irqEn := rfl
@[simp] theorem State.advance_xm : (s.advance).xm = s.xm := rfl
@[simp] theorem State.advance_cm : (s.advance).cm = s.cm := rfl
@[simp] theorem State.advance_km : (s.advance).km = s.km := rfl
@[simp] theorem State.advance_epoch : (s.advance).epoch = s.epoch := rfl
@[simp] theorem State.advance_draws : (s.advance).draws = s.draws := rfl

@[simp] theorem State.writeXm_cfg (base : Nat) (vs : List Elt) : (s.writeXm base vs).cfg = s.cfg := rfl
@[simp] theorem State.writeXm_status (base : Nat) (vs : List Elt) : (s.writeXm base vs).status = s.status := rfl
@[simp] theorem State.writeXm_cp (base : Nat) (vs : List Elt) : (s.writeXm base vs).cp = s.cp := rfl
@[simp] theorem State.writeXm_arenaBase (base : Nat) (vs : List Elt) : (s.writeXm base vs).arenaBase = s.arenaBase := rfl
@[simp] theorem State.writeXm_arenaSize (base : Nat) (vs : List Elt) : (s.writeXm base vs).arenaSize = s.arenaSize := rfl
@[simp] theorem State.writeXm_fcode (base : Nat) (vs : List Elt) : (s.writeXm base vs).fcode = s.fcode := rfl
@[simp] theorem State.writeXm_fcp (base : Nat) (vs : List Elt) : (s.writeXm base vs).fcp = s.fcp := rfl
@[simp] theorem State.writeXm_finfo (base : Nat) (vs : List Elt) : (s.writeXm base vs).finfo = s.finfo := rfl
@[simp] theorem State.writeXm_irqEn (base : Nat) (vs : List Elt) : (s.writeXm base vs).irqEn = s.irqEn := rfl
@[simp] theorem State.writeXm_xm (base : Nat) (vs : List Elt) : (s.writeXm base vs).xm = s.xm.writeFrom base vs := rfl
@[simp] theorem State.writeXm_cm (base : Nat) (vs : List Elt) : (s.writeXm base vs).cm = s.cm := rfl
@[simp] theorem State.writeXm_km (base : Nat) (vs : List Elt) : (s.writeXm base vs).km = s.km := rfl
@[simp] theorem State.writeXm_epoch (base : Nat) (vs : List Elt) : (s.writeXm base vs).epoch = s.epoch := rfl
@[simp] theorem State.writeXm_draws (base : Nat) (vs : List Elt) : (s.writeXm base vs).draws = s.draws := rfl

@[simp] theorem State.writeCm_cfg (base : Nat) (vs : List Word) : (s.writeCm base vs).cfg = s.cfg := rfl
@[simp] theorem State.writeCm_status (base : Nat) (vs : List Word) : (s.writeCm base vs).status = s.status := rfl
@[simp] theorem State.writeCm_cp (base : Nat) (vs : List Word) : (s.writeCm base vs).cp = s.cp := rfl
@[simp] theorem State.writeCm_arenaBase (base : Nat) (vs : List Word) : (s.writeCm base vs).arenaBase = s.arenaBase := rfl
@[simp] theorem State.writeCm_arenaSize (base : Nat) (vs : List Word) : (s.writeCm base vs).arenaSize = s.arenaSize := rfl
@[simp] theorem State.writeCm_fcode (base : Nat) (vs : List Word) : (s.writeCm base vs).fcode = s.fcode := rfl
@[simp] theorem State.writeCm_fcp (base : Nat) (vs : List Word) : (s.writeCm base vs).fcp = s.fcp := rfl
@[simp] theorem State.writeCm_finfo (base : Nat) (vs : List Word) : (s.writeCm base vs).finfo = s.finfo := rfl
@[simp] theorem State.writeCm_irqEn (base : Nat) (vs : List Word) : (s.writeCm base vs).irqEn = s.irqEn := rfl
@[simp] theorem State.writeCm_xm (base : Nat) (vs : List Word) : (s.writeCm base vs).xm = s.xm := rfl
@[simp] theorem State.writeCm_cm (base : Nat) (vs : List Word) : (s.writeCm base vs).cm = s.cm.writeFrom base vs := rfl
@[simp] theorem State.writeCm_km (base : Nat) (vs : List Word) : (s.writeCm base vs).km = s.km := rfl
@[simp] theorem State.writeCm_epoch (base : Nat) (vs : List Word) : (s.writeCm base vs).epoch = s.epoch := rfl
@[simp] theorem State.writeCm_draws (base : Nat) (vs : List Word) : (s.writeCm base vs).draws = s.draws := rfl

@[simp] theorem raiseFault_cfg (c : FaultCode) (w0 : Word) : (raiseFault c w0 s).cfg = s.cfg := rfl
@[simp] theorem raiseFault_status (c : FaultCode) (w0 : Word) : (raiseFault c w0 s).status = .fault := rfl
@[simp] theorem raiseFault_cp (c : FaultCode) (w0 : Word) : (raiseFault c w0 s).cp = s.cp := rfl
@[simp] theorem raiseFault_arenaBase (c : FaultCode) (w0 : Word) : (raiseFault c w0 s).arenaBase = s.arenaBase := rfl
@[simp] theorem raiseFault_arenaSize (c : FaultCode) (w0 : Word) : (raiseFault c w0 s).arenaSize = s.arenaSize := rfl
@[simp] theorem raiseFault_fcode (c : FaultCode) (w0 : Word) : (raiseFault c w0 s).fcode = c.code := rfl
@[simp] theorem raiseFault_fcp (c : FaultCode) (w0 : Word) : (raiseFault c w0 s).fcp = s.cp := rfl
@[simp] theorem raiseFault_finfo (c : FaultCode) (w0 : Word) : (raiseFault c w0 s).finfo = if c = .fetch then 0 else w0 := rfl
@[simp] theorem raiseFault_irqEn (c : FaultCode) (w0 : Word) : (raiseFault c w0 s).irqEn = s.irqEn := rfl
@[simp] theorem raiseFault_xm (c : FaultCode) (w0 : Word) : (raiseFault c w0 s).xm = s.xm := rfl
@[simp] theorem raiseFault_cm (c : FaultCode) (w0 : Word) : (raiseFault c w0 s).cm = s.cm := rfl
@[simp] theorem raiseFault_km (c : FaultCode) (w0 : Word) : (raiseFault c w0 s).km = s.km := rfl
@[simp] theorem raiseFault_epoch (c : FaultCode) (w0 : Word) : (raiseFault c w0 s).epoch = s.epoch := rfl
@[simp] theorem raiseFault_draws (c : FaultCode) (w0 : Word) : (raiseFault c w0 s).draws = s.draws := rfl

@[simp] theorem State.resetOf_cfg (c : Config) : (State.resetOf c).cfg = c := rfl
@[simp] theorem State.resetOf_status (c : Config) : (State.resetOf c).status = .idle := rfl
@[simp] theorem State.resetOf_cp (c : Config) : (State.resetOf c).cp = 0 := rfl
@[simp] theorem State.resetOf_arenaBase (c : Config) : (State.resetOf c).arenaBase = 0 := rfl
@[simp] theorem State.resetOf_arenaSize (c : Config) : (State.resetOf c).arenaSize = 0 := rfl
@[simp] theorem State.resetOf_fcode (c : Config) : (State.resetOf c).fcode = 0 := rfl
@[simp] theorem State.resetOf_fcp (c : Config) : (State.resetOf c).fcp = 0 := rfl
@[simp] theorem State.resetOf_finfo (c : Config) : (State.resetOf c).finfo = 0 := rfl
@[simp] theorem State.resetOf_irqEn (c : Config) : (State.resetOf c).irqEn = 0 := rfl
@[simp] theorem State.resetOf_xm (c : Config) : (State.resetOf c).xm = [] := rfl
@[simp] theorem State.resetOf_cm (c : Config) : (State.resetOf c).cm = [] := rfl
@[simp] theorem State.resetOf_km (c : Config) : (State.resetOf c).km = [] := rfl
@[simp] theorem State.resetOf_epoch (c : Config) : (State.resetOf c).epoch = 0 := rfl
@[simp] theorem State.resetOf_draws (c : Config) : (State.resetOf c).draws = 1 := rfl

@[simp] theorem platformReset_cfg : (platformReset s).cfg = s.cfg := rfl
@[simp] theorem platformReset_status : (platformReset s).status = .idle := rfl
@[simp] theorem platformReset_cp : (platformReset s).cp = 0 := rfl
@[simp] theorem platformReset_arenaBase : (platformReset s).arenaBase = 0 := rfl
@[simp] theorem platformReset_arenaSize : (platformReset s).arenaSize = 0 := rfl
@[simp] theorem platformReset_fcode : (platformReset s).fcode = 0 := rfl
@[simp] theorem platformReset_fcp : (platformReset s).fcp = 0 := rfl
@[simp] theorem platformReset_finfo : (platformReset s).finfo = 0 := rfl
@[simp] theorem platformReset_irqEn : (platformReset s).irqEn = 0 := rfl
@[simp] theorem platformReset_xm : (platformReset s).xm = [] := rfl
@[simp] theorem platformReset_cm : (platformReset s).cm = [] := rfl
@[simp] theorem platformReset_km : (platformReset s).km = [] := rfl
@[simp] theorem platformReset_epoch : (platformReset s).epoch = s.epoch + 1 := rfl
@[simp] theorem platformReset_draws : (platformReset s).draws = 1 := rfl

end

end Sys2Proof.Machine
end

