-- ==== Sys2Proof/Laws/Memory.lean ====
section
/-! SUPPORT. The laws of one memory: a read after a write, and the canonical form that every operation keeps. -/

namespace Sys2Proof.Machine

section

variable {α : Type}

@[simp] theorem Held.isReset_val (v : α) : (Held.val v).isReset = false := rfl

@[simp] theorem Held.isReset_any (k : Nat) : (Held.any k : Held α).isReset = decide (k = 0) := by
  cases k <;> rfl

theorem Held.isReset_iff (h : Held α) : h.isReset = true ↔ h = .any 0 := by
  cases h with
  | val v => simp
  | any k => simp

@[simp] theorem Memory.get_nil (a : Nat) : Memory.get ([] : Memory α) a = .any 0 := rfl

/-- A unit that is not listed holds what reset left there. -/
theorem Memory.get_of_lt_all {m : Memory α} {a : Nat} (h : ∀ p ∈ m, a < p.1) : m.get a = .any 0 := by
  induction m with
  | nil => rfl
  | cons p rest ih =>
    have h1 : a < p.1 := h p (by simp)
    have h2 : a ≠ p.1 := by omega
    simp only [Memory.get, h2, if_false]
    exact ih fun q hq => h q (by simp [hq])

theorem Memory.wf_cons {a : Nat} {h : Held α} {rest : Memory α} :
    Memory.wf ((a, h) :: rest) = true ↔ h.isReset = false ∧ (∀ p ∈ rest, a < p.1) ∧ Memory.wf rest = true := by
  simp [Memory.wf, and_assoc]

/-- A read after a write to the same unit gives the value written (R42), where the memory is canonical. -/
theorem Memory.get_put_self {m : Memory α} (hm : m.wf = true) (a : Nat) (h : Held α) : (m.put a h).get a = h := by
  induction m with
  | nil =>
    by_cases hr : h.isReset = true
    · simp [Memory.put, (Held.isReset_iff h).1 hr]
    · simp [Memory.put, hr, Memory.get]
  | cons p rest ih =>
    obtain ⟨b, g⟩ := p
    obtain ⟨-, hall, hrest⟩ := Memory.wf_cons.1 hm
    rcases Nat.lt_trichotomy a b with hlt | heq | hgt
    · by_cases hr : h.isReset = true
      · have hne : a ≠ b := by omega
        rw [(Held.isReset_iff h).1 hr]
        simp only [Memory.put, hlt, if_true, Held.isReset_any, decide_true, Memory.get, hne, if_false]
        exact Memory.get_of_lt_all fun q hq => Nat.lt_trans hlt (hall q hq)
      · simp [Memory.put, hlt, hr, Memory.get]
    · subst heq
      by_cases hr : h.isReset = true
      · rw [(Held.isReset_iff h).1 hr]
        simp only [Memory.put, Nat.lt_irrefl, if_false, if_true, Held.isReset_any, decide_true]
        exact Memory.get_of_lt_all hall
      · simp [Memory.put, hr, Memory.get]
    · have h1 : ¬ a < b := by omega
      have h2 : a ≠ b := by omega
      simp only [Memory.put, h1, h2, if_false, Memory.get]
      exact ih hrest

/-- A read after a write gives what was written, in any memory, where that is not the reset content. -/
theorem Memory.get_put_of_not_reset (m : Memory α) (a : Nat) {h : Held α} (hr : h.isReset = false) :
    (m.put a h).get a = h := by
  induction m with
  | nil => simp [Memory.put, hr, Memory.get]
  | cons p rest ih =>
    obtain ⟨b, g⟩ := p
    rcases Nat.lt_trichotomy a b with hlt | heq | hgt
    · simp [Memory.put, hlt, hr, Memory.get]
    · simp [Memory.put, heq, hr, Memory.get]
    · have h1 : ¬ a < b := by omega
      have h2 : a ≠ b := by omega
      simp [Memory.put, h1, h2, Memory.get, ih]

/-- A read after the write of a value gives that value, in any memory. -/
@[simp] theorem Memory.get_put_val (m : Memory α) (a : Nat) (v : α) : (m.put a (.val v)).get a = .val v :=
  Memory.get_put_of_not_reset m a rfl

/-- A write leaves every other unit alone (R42). -/
theorem Memory.get_put_ne (m : Memory α) {a a' : Nat} (hne : a' ≠ a) (h : Held α) : (m.put a h).get a' = m.get a' := by
  induction m with
  | nil => by_cases hr : h.isReset = true <;> simp [Memory.put, hr, Memory.get, hne]
  | cons p rest ih =>
    obtain ⟨b, g⟩ := p
    rcases Nat.lt_trichotomy a b with hlt | heq | hgt
    · by_cases hr : h.isReset = true <;> simp [Memory.put, hlt, hr, Memory.get, hne]
    · subst heq
      by_cases hr : h.isReset = true <;> simp [Memory.put, hr, Memory.get, hne]
    · have h1 : ¬ a < b := by omega
      have h2 : a ≠ b := by omega
      simp [Memory.put, h1, h2, Memory.get, ih]

/-- Everything a write can list was listed before, or is the unit written. -/
theorem Memory.mem_put {m : Memory α} {a : Nat} {h : Held α} {q : Nat × Held α} (hq : q ∈ m.put a h) :
    q ∈ m ∨ q = (a, h) := by
  induction m with
  | nil =>
    by_cases hr : h.isReset = true <;> simp [Memory.put, hr] at hq
    exact .inr hq
  | cons p rest ih =>
    obtain ⟨b, g⟩ := p
    rcases Nat.lt_trichotomy a b with hlt | heq | hgt
    · by_cases hr : h.isReset = true
      · simp only [Memory.put, hlt, hr, if_true] at hq; exact .inl hq
      · simp only [Memory.put, hlt, hr, if_true] at hq
        rcases List.mem_cons.1 hq with h1 | h1
        · exact .inr h1
        · exact .inl h1
    · by_cases hr : h.isReset = true
      · simp only [Memory.put, heq, Nat.lt_irrefl, hr, if_true, if_false] at hq
        exact .inl (List.mem_cons_of_mem _ hq)
      · simp only [Memory.put, heq, Nat.lt_irrefl, hr, if_true, if_false] at hq
        rcases List.mem_cons.1 hq with h1 | h1
        · exact .inr (by rw [h1, heq])
        · exact .inl (List.mem_cons_of_mem _ h1)
    · have h1 : ¬ a < b := by omega
      have h2 : a ≠ b := by omega
      simp only [Memory.put, h1, h2, if_false] at hq
      rcases List.mem_cons.1 hq with h3 | h3
      · exact .inl (by simp [h3])
      · rcases ih h3 with h4 | h4
        · exact .inl (List.mem_cons_of_mem _ h4)
        · exact .inr h4

/-- A write keeps the canonical form. -/
theorem Memory.wf_put {m : Memory α} (hm : m.wf = true) (a : Nat) (h : Held α) : (m.put a h).wf = true := by
  induction m with
  | nil =>
    by_cases hr : h.isReset = true
    · simp [Memory.put, hr, Memory.wf]
    · simp [Memory.put, hr, Memory.wf]
  | cons p rest ih =>
    obtain ⟨b, g⟩ := p
    obtain ⟨hg, hall, hrest⟩ := Memory.wf_cons.1 hm
    rcases Nat.lt_trichotomy a b with hlt | heq | hgt
    · by_cases hr : h.isReset = true
      · simpa [Memory.put, hlt, hr] using hm
      · simp only [Memory.put, hlt, hr, if_true]
        refine Memory.wf_cons.2 ⟨by simpa using hr, ?_, hm⟩
        intro q hq
        rcases List.mem_cons.1 hq with h1 | h1
        · rw [h1]; exact hlt
        · exact Nat.lt_trans hlt (hall q h1)
    · subst heq
      by_cases hr : h.isReset = true
      · simpa [Memory.put, hr] using hrest
      · simp only [Memory.put, Nat.lt_irrefl, hr, if_true, if_false]
        exact Memory.wf_cons.2 ⟨by simpa using hr, hall, hrest⟩
    · have h1 : ¬ a < b := by omega
      have h2 : a ≠ b := by omega
      simp only [Memory.put, h1, h2, if_false]
      refine Memory.wf_cons.2 ⟨hg, ?_, ih hrest⟩
      intro q hq
      rcases Memory.mem_put hq with h3 | h3
      · exact hall q h3
      · rw [h3]; exact hgt

@[simp] theorem Memory.writeFrom_nil (m : Memory α) (base : Nat) : m.writeFrom base [] = m := rfl

theorem Memory.writeFrom_cons (m : Memory α) (base : Nat) (v : α) (vs : List α) :
    m.writeFrom base (v :: vs) = (m.put base (.val v)).writeFrom (base + 1) vs := rfl

/-- A block write leaves every unit below its base alone. -/
theorem Memory.get_writeFrom_lt (vs : List α) (m : Memory α) {base a : Nat} (h : a < base) :
    (m.writeFrom base vs).get a = m.get a := by
  induction vs generalizing m base with
  | nil => rfl
  | cons v vs ih => rw [Memory.writeFrom_cons, ih _ (by omega), Memory.get_put_ne _ (by omega)]

/-- A block write leaves every unit past its end alone. -/
theorem Memory.get_writeFrom_ge (vs : List α) (m : Memory α) {base a : Nat} (h : base + vs.length ≤ a) :
    (m.writeFrom base vs).get a = m.get a := by
  induction vs generalizing m base with
  | nil => rfl
  | cons v vs ih =>
    simp only [List.length_cons] at h
    rw [Memory.writeFrom_cons, ih _ (by omega), Memory.get_put_ne _ (by omega)]

/-- A block write stores value `i` in unit `base + i`. -/
theorem Memory.get_writeFrom_in (vs : List α) (m : Memory α) (base : Nat) {i : Nat} (h : i < vs.length) :
    (m.writeFrom base vs).get (base + i) = .val vs[i] := by
  induction vs generalizing m base i with
  | nil => simp at h
  | cons v vs ih =>
    rw [Memory.writeFrom_cons]
    cases i with
    | zero => rw [Nat.add_zero, Memory.get_writeFrom_lt _ _ (by omega)]; simp
    | succ i =>
      have := ih (m.put base (.val v)) (base + 1) (i := i) (by simpa using h)
      rw [show base + (i + 1) = base + 1 + i by omega, this]; simp

/-- What a block write does to any unit. -/
theorem Memory.get_writeFrom (m : Memory α) (base : Nat) (vs : List α) (a : Nat) :
    (m.writeFrom base vs).get a =
      if h : base ≤ a ∧ a < base + vs.length then .val (vs[a - base]'(by omega)) else m.get a := by
  by_cases h : base ≤ a ∧ a < base + vs.length
  · have := Memory.get_writeFrom_in vs m base (i := a - base) (by omega)
    rw [show base + (a - base) = a by omega] at this
    simp [h, this]
  · rw [dif_neg h]
    by_cases h1 : a < base
    · exact Memory.get_writeFrom_lt vs m h1
    · exact Memory.get_writeFrom_ge vs m (by omega)

theorem Memory.wf_writeFrom (vs : List α) {m : Memory α} (hm : m.wf = true) (base : Nat) :
    (m.writeFrom base vs).wf = true := by
  induction vs generalizing m base with
  | nil => exact hm
  | cons v vs ih => exact ih (Memory.wf_put hm base _) (base + 1)

/-- Everything a block write can list. -/
theorem Memory.mem_writeFrom (vs : List α) {m : Memory α} {base : Nat} {q : Nat × Held α}
    (hq : q ∈ m.writeFrom base vs) : q ∈ m ∨ (base ≤ q.1 ∧ q.1 < base + vs.length ∧ ∃ v, q.2 = .val v) := by
  induction vs generalizing m base with
  | nil => exact .inl hq
  | cons v vs ih =>
    rcases ih hq with h1 | ⟨h1, h2, h3⟩
    · rcases Memory.mem_put h1 with h2 | h2
      · exact .inl h2
      · subst h2; exact .inr ⟨Nat.le_refl _, by simp, v, rfl⟩
    · exact .inr ⟨by omega, by simp only [List.length_cons]; omega, h3⟩

@[simp] theorem Memory.clobber_zero (m : Memory α) (base draw : Nat) : m.clobber base draw 0 = m := rfl

theorem Memory.clobber_succ (m : Memory α) (base draw n : Nat) :
    m.clobber base draw (n + 1) = (m.clobber base draw n).put (base + n) (.any draw) := rfl

theorem Memory.wf_clobber {m : Memory α} (hm : m.wf = true) (base draw n : Nat) : (m.clobber base draw n).wf = true := by
  induction n with
  | zero => exact hm
  | succ n ih => exact Memory.wf_put ih _ _

/-- A clobber leaves every unit outside its range alone (R46). -/
theorem Memory.get_clobber_out (m : Memory α) (base draw n : Nat) {a : Nat} (h : ¬ (base ≤ a ∧ a < base + n)) :
    (m.clobber base draw n).get a = m.get a := by
  induction n with
  | zero => rfl
  | succ n ih => rw [Memory.clobber_succ, Memory.get_put_ne _ (by omega), ih (by omega)]

/-- A clobbered unit holds ANY of the given draw (R46), no draw of a command being the draw 0 of reset. -/
theorem Memory.get_clobber_in (m : Memory α) (base n : Nat) {draw : Nat} (hd : 1 ≤ draw) {a : Nat}
    (h : base ≤ a ∧ a < base + n) : (m.clobber base draw n).get a = .any draw := by
  induction n with
  | zero => omega
  | succ n ih =>
    rw [Memory.clobber_succ]
    by_cases h1 : a = base + n
    · subst h1; exact Memory.get_put_of_not_reset _ _ (by simp; omega)
    · rw [Memory.get_put_ne _ h1, ih (by omega)]

/-- Everything a clobber can list. -/
theorem Memory.mem_clobber {m : Memory α} {base draw n : Nat} {q : Nat × Held α} (hq : q ∈ m.clobber base draw n) :
    q ∈ m ∨ (base ≤ q.1 ∧ q.1 < base + n ∧ q.2 = .any draw) := by
  induction n with
  | zero => exact .inl hq
  | succ n ih =>
    rcases Memory.mem_put hq with h1 | h1
    · rcases ih h1 with h2 | ⟨h2, h3, h4⟩
      · exact .inl h2
      · exact .inr ⟨h2, by omega, h4⟩
    · subst h1; exact .inr ⟨Nat.le_add_right _ _, by simp, rfl⟩

theorem Memory.within_iff {m : Memory α} {size : Nat} : m.within size = true ↔ ∀ p ∈ m, p.1 < size := by
  simp [Memory.within]

theorem Memory.within_put {m : Memory α} {size a : Nat} (hm : m.within size = true) (ha : a < size) (h : Held α) :
    (m.put a h).within size = true := by
  rw [Memory.within_iff] at *
  intro q hq
  rcases Memory.mem_put hq with h1 | h1
  · exact hm q h1
  · rw [h1]; exact ha

theorem Memory.within_writeFrom {m : Memory α} {size base : Nat} {vs : List α} (hm : m.within size = true)
    (h : base + vs.length ≤ size) : (m.writeFrom base vs).within size = true := by
  rw [Memory.within_iff] at *
  intro q hq
  rcases Memory.mem_writeFrom vs hq with h1 | ⟨-, h2, -⟩
  · exact hm q h1
  · omega

theorem Memory.within_clobber {m : Memory α} {size base draw n : Nat} (hm : m.within size = true)
    (h : base + n ≤ size) : (m.clobber base draw n).within size = true := by
  rw [Memory.within_iff] at *
  intro q hq
  rcases Memory.mem_clobber hq with h1 | ⟨-, h2, -⟩
  · exact hm q h1
  · omega

theorem Memory.drawnBefore_iff {m : Memory α} {d : Nat} :
    m.drawnBefore d = true ↔ ∀ p ∈ m, ∀ k, p.2 = .any k → k < d := by
  simp only [Memory.drawnBefore, List.all_eq_true]
  constructor
  · intro h p hp k hk
    have := h p hp
    rw [hk] at this
    simpa using this
  · intro h p hp
    cases hk : p.2 with
    | val v => rfl
    | any k => simpa using h p hp k hk

theorem Memory.drawnBefore_mono {m : Memory α} {d e : Nat} (hm : m.drawnBefore d = true) (h : d ≤ e) :
    m.drawnBefore e = true := by
  rw [Memory.drawnBefore_iff] at *
  exact fun p hp k hk => Nat.lt_of_lt_of_le (hm p hp k hk) h

theorem Memory.drawnBefore_put_val {m : Memory α} {d a : Nat} (hm : m.drawnBefore d = true) (v : α) :
    (m.put a (.val v)).drawnBefore d = true := by
  rw [Memory.drawnBefore_iff] at *
  intro q hq k hk
  rcases Memory.mem_put hq with h1 | h1
  · exact hm q h1 k hk
  · rw [h1] at hk; cases hk

theorem Memory.drawnBefore_writeFrom {m : Memory α} {d base : Nat} {vs : List α} (hm : m.drawnBefore d = true) :
    (m.writeFrom base vs).drawnBefore d = true := by
  rw [Memory.drawnBefore_iff] at *
  intro q hq k hk
  rcases Memory.mem_writeFrom vs hq with h1 | ⟨-, -, v, h3⟩
  · exact hm q h1 k hk
  · rw [hk] at h3; cases h3

theorem Memory.drawnBefore_clobber {m : Memory α} {d base n : Nat} (hm : m.drawnBefore d = true) :
    (m.clobber base d n).drawnBefore (d + 1) = true := by
  rw [Memory.drawnBefore_iff] at *
  intro q hq k hk
  rcases Memory.mem_clobber hq with h1 | ⟨-, -, h3⟩
  · exact Nat.lt_succ_of_lt (hm q h1 k hk)
  · rw [hk] at h3; cases h3; exact Nat.lt_succ_self _

end

/-- Reset leaves canonical memories. -/
theorem reset_memories_wf : State.reset.xm.wf = true ∧ State.reset.cm.wf = true ∧ State.reset.km.wf = true :=
  ⟨rfl, rfl, rfl⟩

end Sys2Proof.Machine
end

