-- ==== Sys2Proof/Laws/Ops.lean ====
section
/-! SUPPORT. The laws of the shared operations: what a read sees after each update, and what each operation can do, said once. -/

namespace Sys2Proof.Machine

section

variable (s : State)

/-! ### Reading a unit after an update of something else -/

@[simp] theorem State.setXm_cmAt (m : Memory Elt) (e : Nat) : (s.setXm m).cmAt e = s.cmAt e := rfl
@[simp] theorem State.setXm_kmAt (m : Memory Elt) (e : Nat) : (s.setXm m).kmAt e = s.kmAt e := rfl
@[simp] theorem State.setCm_xmAt (m : Memory Word) (e : Nat) : (s.setCm m).xmAt e = s.xmAt e := rfl
@[simp] theorem State.setCm_kmAt (m : Memory Word) (e : Nat) : (s.setCm m).kmAt e = s.kmAt e := rfl
@[simp] theorem State.setKm_xmAt (m : Memory Descriptor) (e : Nat) : (s.setKm m).xmAt e = s.xmAt e := rfl
@[simp] theorem State.setKm_cmAt (m : Memory Descriptor) (e : Nat) : (s.setKm m).cmAt e = s.cmAt e := rfl
@[simp] theorem State.setStatus_xmAt (r : RunState) (e : Nat) : (s.setStatus r).xmAt e = s.xmAt e := rfl
@[simp] theorem State.setStatus_cmAt (r : RunState) (e : Nat) : (s.setStatus r).cmAt e = s.cmAt e := rfl
@[simp] theorem State.setStatus_kmAt (r : RunState) (e : Nat) : (s.setStatus r).kmAt e = s.kmAt e := rfl
@[simp] theorem State.setCp_xmAt (v : BitVec 32) (e : Nat) : (s.setCp v).xmAt e = s.xmAt e := rfl
@[simp] theorem State.setCp_cmAt (v : BitVec 32) (e : Nat) : (s.setCp v).cmAt e = s.cmAt e := rfl
@[simp] theorem State.setCp_kmAt (v : BitVec 32) (e : Nat) : (s.setCp v).kmAt e = s.kmAt e := rfl
@[simp] theorem State.setArenaBase_xmAt (v : BitVec 32) (e : Nat) : (s.setArenaBase v).xmAt e = s.xmAt e := rfl
@[simp] theorem State.setArenaBase_cmAt (v : BitVec 32) (e : Nat) : (s.setArenaBase v).cmAt e = s.cmAt e := rfl
@[simp] theorem State.setArenaBase_kmAt (v : BitVec 32) (e : Nat) : (s.setArenaBase v).kmAt e = s.kmAt e := rfl
@[simp] theorem State.setArenaSize_xmAt (v : BitVec 33) (e : Nat) : (s.setArenaSize v).xmAt e = s.xmAt e := rfl
@[simp] theorem State.setArenaSize_cmAt (v : BitVec 33) (e : Nat) : (s.setArenaSize v).cmAt e = s.cmAt e := rfl
@[simp] theorem State.setArenaSize_kmAt (v : BitVec 33) (e : Nat) : (s.setArenaSize v).kmAt e = s.kmAt e := rfl
@[simp] theorem State.setIrqEn_xmAt (v : BitVec 2) (e : Nat) : (s.setIrqEn v).xmAt e = s.xmAt e := rfl
@[simp] theorem State.setIrqEn_cmAt (v : BitVec 2) (e : Nat) : (s.setIrqEn v).cmAt e = s.cmAt e := rfl
@[simp] theorem State.setIrqEn_kmAt (v : BitVec 2) (e : Nat) : (s.setIrqEn v).kmAt e = s.kmAt e := rfl
@[simp] theorem State.bumpDraws_xmAt (e : Nat) : (s.bumpDraws).xmAt e = s.xmAt e := rfl
@[simp] theorem State.bumpDraws_cmAt (e : Nat) : (s.bumpDraws).cmAt e = s.cmAt e := rfl
@[simp] theorem State.bumpDraws_kmAt (e : Nat) : (s.bumpDraws).kmAt e = s.kmAt e := rfl
@[simp] theorem State.setFaultRegs_xmAt (c : BitVec 4) (p : BitVec 32) (i : BitVec 64) (e : Nat) : (s.setFaultRegs c p i).xmAt e = s.xmAt e := rfl
@[simp] theorem State.setFaultRegs_cmAt (c : BitVec 4) (p : BitVec 32) (i : BitVec 64) (e : Nat) : (s.setFaultRegs c p i).cmAt e = s.cmAt e := rfl
@[simp] theorem State.setFaultRegs_kmAt (c : BitVec 4) (p : BitVec 32) (i : BitVec 64) (e : Nat) : (s.setFaultRegs c p i).kmAt e = s.kmAt e := rfl
@[simp] theorem State.advance_xmAt (e : Nat) : (s.advance).xmAt e = s.xmAt e := rfl
@[simp] theorem State.advance_cmAt (e : Nat) : (s.advance).cmAt e = s.cmAt e := rfl
@[simp] theorem State.advance_kmAt (e : Nat) : (s.advance).kmAt e = s.kmAt e := rfl
@[simp] theorem State.writeXm_cmAt (b : Nat) (vs : List Elt) (e : Nat) : (s.writeXm b vs).cmAt e = s.cmAt e := rfl
@[simp] theorem State.writeXm_kmAt (b : Nat) (vs : List Elt) (e : Nat) : (s.writeXm b vs).kmAt e = s.kmAt e := rfl
@[simp] theorem State.writeCm_xmAt (b : Nat) (vs : List Word) (e : Nat) : (s.writeCm b vs).xmAt e = s.xmAt e := rfl
@[simp] theorem State.writeCm_kmAt (b : Nat) (vs : List Word) (e : Nat) : (s.writeCm b vs).kmAt e = s.kmAt e := rfl
@[simp] theorem raiseFault_xmAt (c : FaultCode) (w0 : Word) (e : Nat) : (raiseFault c w0 s).xmAt e = s.xmAt e := rfl
@[simp] theorem raiseFault_cmAt (c : FaultCode) (w0 : Word) (e : Nat) : (raiseFault c w0 s).cmAt e = s.cmAt e := rfl
@[simp] theorem raiseFault_kmAt (c : FaultCode) (w0 : Word) (e : Nat) : (raiseFault c w0 s).kmAt e = s.kmAt e := rfl

/-- A read of XM depends on the memory's content at that unit and on the epoch alone. -/
theorem State.xmAt_congr {s t : State} {e : Nat} (h : s.xm.get e = t.xm.get e) (he : s.epoch = t.epoch) :
    s.xmAt e = t.xmAt e := by
  simp only [State.xmAt, h, he]

/-- A read of CM depends on the memory's content at that unit and on the epoch alone. -/
theorem State.cmAt_congr {s t : State} {w : Nat} (h : s.cm.get w = t.cm.get w) (he : s.epoch = t.epoch) :
    s.cmAt w = t.cmAt w := by
  simp only [State.cmAt, h, he]

/-- A read of KM depends on the memory's content at that unit and on the epoch alone. -/
theorem State.kmAt_congr {s t : State} {c : Nat} (h : s.km.get c = t.km.get c) (he : s.epoch = t.epoch) :
    s.kmAt c = t.kmAt c := by
  simp only [State.kmAt, h, he]

/-- `MemWrite(XM, …)` stores value `i` in unit `base + i`. -/
theorem State.xmAt_writeXm_in (base : Nat) (vs : List Elt) {i : Nat} (h : i < vs.length) :
    (s.writeXm base vs).xmAt (base + i) = vs[i] := by
  simp only [State.xmAt, State.writeXm_xm, Memory.get_writeFrom_in vs s.xm base h]

/-- `MemWrite(XM, …)` changes no unit outside its range. -/
theorem State.xmAt_writeXm_out (base : Nat) (vs : List Elt) {e : Nat} (h : ¬ (base ≤ e ∧ e < base + vs.length)) :
    (s.writeXm base vs).xmAt e = s.xmAt e := by
  refine State.xmAt_congr ?_ rfl
  rw [State.writeXm_xm, Memory.get_writeFrom, dif_neg h]

/-- `MemWrite(CM, …)` stores value `i` in unit `base + i`. -/
theorem State.cmAt_writeCm_in (base : Nat) (vs : List Word) {i : Nat} (h : i < vs.length) :
    (s.writeCm base vs).cmAt (base + i) = vs[i] := by
  simp only [State.cmAt, State.writeCm_cm, Memory.get_writeFrom_in vs s.cm base h]

/-- `MemWrite(CM, …)` changes no unit outside its range. -/
theorem State.cmAt_writeCm_out (base : Nat) (vs : List Word) {w : Nat} (h : ¬ (base ≤ w ∧ w < base + vs.length)) :
    (s.writeCm base vs).cmAt w = s.cmAt w := by
  refine State.cmAt_congr ?_ rfl
  rw [State.writeCm_cm, Memory.get_writeFrom, dif_neg h]

@[simp] theorem State.readXm_length (base n : Nat) : (s.readXm base n).length = n := by
  simp [State.readXm]

@[simp] theorem State.readCm_length (base n : Nat) : (s.readCm base n).length = n := by
  simp [State.readCm]

theorem State.readXm_getElem (base n : Nat) {i : Nat} (h : i < (s.readXm base n).length) :
    (s.readXm base n)[i] = s.xmAt (base + i) := by
  simp [State.readXm]

theorem State.readCm_getElem (base n : Nat) {i : Nat} (h : i < (s.readCm base n).length) :
    (s.readCm base n)[i] = s.cmAt (base + i) := by
  simp [State.readCm]

/-! ### The arena clobber rule (R46) -/

@[simp] theorem State.clobberArena_zero : s.clobberArena 0 = s := rfl

theorem State.clobberArena_pos {need : Nat} (h : 0 < need) :
    s.clobberArena need = (s.setXm (s.xm.clobber s.arenaBase.toNat s.draws need)).bumpDraws := by
  rw [State.clobberArena, if_neg (by omega)]

/-- A clobber changes XM and the draw counter alone. -/
theorem State.clobberArena_frame (need : Nat) :
    ∃ m d, s.clobberArena need = { s with xm := m, draws := d } ∧ s.draws ≤ d := by
  by_cases h : need = 0
  · exact ⟨s.xm, s.draws, by simp [h], Nat.le_refl _⟩
  · exact ⟨_, _, s.clobberArena_pos (by omega), Nat.le_succ _⟩

theorem State.clobberArena_draws (need : Nat) :
    (s.clobberArena need).draws = if need = 0 then s.draws else s.draws + 1 := by
  by_cases h : need = 0
  · simp [h]
  · rw [s.clobberArena_pos (by omega), if_neg h]; rfl

/-- No element outside the clobber range changes. -/
theorem State.xmAt_clobberArena_out {need e : Nat}
    (h : ¬ (s.arenaBase.toNat ≤ e ∧ e < s.arenaBase.toNat + need)) : (s.clobberArena need).xmAt e = s.xmAt e := by
  by_cases h0 : need = 0
  · simp [h0]
  · rw [s.clobberArena_pos (by omega)]
    exact State.xmAt_congr (Memory.get_clobber_out _ _ _ _ h) rfl

/-- Every element of the clobber range holds ANY, by the draw of this act. -/
theorem State.get_clobberArena_in {need e : Nat} (hd : 1 ≤ s.draws)
    (h : s.arenaBase.toNat ≤ e ∧ e < s.arenaBase.toNat + need) : (s.clobberArena need).xm.get e = .any s.draws := by
  rw [s.clobberArena_pos (by omega)]
  exact Memory.get_clobber_in _ _ _ hd h

@[simp] theorem State.clobberArena_cfg (need : Nat) : (s.clobberArena need).cfg = s.cfg := by
  unfold State.clobberArena; split <;> rfl

@[simp] theorem State.clobberArena_status (need : Nat) : (s.clobberArena need).status = s.status := by
  unfold State.clobberArena; split <;> rfl

@[simp] theorem State.clobberArena_cp (need : Nat) : (s.clobberArena need).cp = s.cp := by
  unfold State.clobberArena; split <;> rfl

@[simp] theorem State.clobberArena_arenaBase (need : Nat) : (s.clobberArena need).arenaBase = s.arenaBase := by
  unfold State.clobberArena; split <;> rfl

@[simp] theorem State.clobberArena_arenaSize (need : Nat) : (s.clobberArena need).arenaSize = s.arenaSize := by
  unfold State.clobberArena; split <;> rfl

@[simp] theorem State.clobberArena_fcode (need : Nat) : (s.clobberArena need).fcode = s.fcode := by
  unfold State.clobberArena; split <;> rfl

@[simp] theorem State.clobberArena_fcp (need : Nat) : (s.clobberArena need).fcp = s.fcp := by
  unfold State.clobberArena; split <;> rfl

@[simp] theorem State.clobberArena_finfo (need : Nat) : (s.clobberArena need).finfo = s.finfo := by
  unfold State.clobberArena; split <;> rfl

@[simp] theorem State.clobberArena_irqEn (need : Nat) : (s.clobberArena need).irqEn = s.irqEn := by
  unfold State.clobberArena; split <;> rfl

@[simp] theorem State.clobberArena_cm (need : Nat) : (s.clobberArena need).cm = s.cm := by
  unfold State.clobberArena; split <;> rfl

@[simp] theorem State.clobberArena_km (need : Nat) : (s.clobberArena need).km = s.km := by
  unfold State.clobberArena; split <;> rfl

@[simp] theorem State.clobberArena_epoch (need : Nat) : (s.clobberArena need).epoch = s.epoch := by
  unfold State.clobberArena; split <;> rfl

@[simp] theorem State.clobberArena_cmAt (need e : Nat) : (s.clobberArena need).cmAt e = s.cmAt e := by
  unfold State.clobberArena; split <;> rfl

@[simp] theorem State.clobberArena_kmAt (need e : Nat) : (s.clobberArena need).kmAt e = s.kmAt e := by
  unfold State.clobberArena; split <;> rfl

end

/-! ### Checks and commands -/

@[simp] theorem firstFault_nil : firstFault [] = none := rfl

@[simp] theorem firstFault_cons (bad : Bool) (c : FaultCode) (rest : List (Bool × FaultCode)) :
    firstFault ((bad, c) :: rest) = if bad then some c else firstFault rest := rfl

/-- Everything a command can do: the fault of its check, or its effect and the advance of `CP`. -/
theorem runCommand_cases {w0 : Word} {check : Option FaultCode} {effect : State → State} {s t : State}
    (h : runCommand w0 check effect s = .next t) :
    (∃ c, check = some c ∧ t = raiseFault c w0 s) ∨ (check = none ∧ t = (effect s).advance) := by
  cases check with
  | none => simp only [runCommand, Host.Outcome.next.injEq] at h; exact .inr ⟨rfl, h.symm⟩
  | some c => simp only [runCommand, Host.Outcome.next.injEq] at h; exact .inl ⟨c, rfl, h.symm⟩

@[simp] theorem runCommand_some (w0 : Word) (c : FaultCode) (effect : State → State) (s : State) :
    runCommand w0 (some c) effect s = .next (raiseFault c w0 s) := rfl

@[simp] theorem runCommand_none (w0 : Word) (effect : State → State) (s : State) :
    runCommand w0 none effect s = .next (effect s).advance := rfl

/-- A command always has a next state (R150: no third outcome). -/
theorem runCommand_next (w0 : Word) (check : Option FaultCode) (effect : State → State) (s : State) :
    ∃ t, runCommand w0 check effect s = .next t := by
  cases check <;> exact ⟨_, rfl⟩

/-- Everything `CLEAR` can do (R155). -/
theorem clearFault_cases (s : State) :
    ((s.status = .halted ∨ s.status = .fault) ∧ clearFault s = (s.setFaultRegs 0 0 0).setStatus .idle) ∨
      ((s.status = .idle ∨ s.status = .run) ∧ clearFault s = s) := by
  unfold clearFault; cases h : s.status <;> simp

/-- Everything `START` can do (R154). -/
theorem startRun_cases (s : State) :
    ((s.status = .idle ∨ s.status = .halted) ∧ startRun s = s.setStatus .run) ∨
      ((s.status = .run ∨ s.status = .fault) ∧ startRun s = s) := by
  unfold startRun; cases h : s.status <;> simp

/-- Everything a write marked RW* can do (R156). -/
theorem unlessRunning_cases (s : State) (f : State → State) :
    (s.status = .run ∧ unlessRunning s f = s) ∨ (s.status ≠ .run ∧ unlessRunning s f = f s) := by
  unfold unlessRunning; cases h : s.status <;> simp

/-- Everything the fetch can find (R150, R52). -/
theorem fetchDecode_cases (s : State) :
    (s.status ≠ .run ∧ fetchDecode s = .stopped) ∨
      (s.status = .run ∧ s.cfg.kmSize ≤ s.cp.toNat ∧ fetchDecode s = .trapped (raiseFault .fetch 0 s)) ∨
      (s.status = .run ∧ s.cp.toNat < s.cfg.kmSize ∧ ∃ e, decode (s.kmAt s.cp.toNat) = .error e ∧
        fetchDecode s = .trapped (raiseFault (DecodeError.faultCode e) (s.kmAt s.cp.toNat).w0 s)) ∨
      (s.status = .run ∧ s.cp.toNat < s.cfg.kmSize ∧ ∃ i, decode (s.kmAt s.cp.toNat) = .ok i ∧
        fetchDecode s = .command i) := by
  cases hs : s.status with
  | run =>
    by_cases hk : s.cfg.kmSize ≤ s.cp.toNat
    · exact .inr (.inl ⟨rfl, hk, by simp [fetchDecode, hs, hk]⟩)
    · cases hd : decode (s.kmAt s.cp.toNat) with
      | error e =>
        exact .inr (.inr (.inl ⟨rfl, by omega, e, rfl, by simp [fetchDecode, hs, hk, hd]⟩))
      | ok i =>
        exact .inr (.inr (.inr ⟨rfl, by omega, i, rfl, by simp [fetchDecode, hs, hk, hd]⟩))
  | idle => exact .inl ⟨by simp, by simp [fetchDecode, hs]⟩
  | halted => exact .inl ⟨by simp, by simp [fetchDecode, hs]⟩
  | fault => exact .inl ⟨by simp, by simp [fetchDecode, hs]⟩

end Sys2Proof.Machine
end

