-- ==== Sys2Proof/Laws/Checks.lean ====
section
/-! SUPPORT. What the checks of each command pass, in the terms of the spec, and the sizes they compare with. -/

namespace Sys2Proof.Machine

/-! ### Powers of three and the splits -/

@[simp] theorem log3_pow (k : Nat) : log3 (3 ^ k) = k := Nat.log_pow (by omega) k

@[simp] theorem isPow3_pow (k : Nat) : isPow3 (3 ^ k) = true := by simp [isPow3]

/-- The check finds exactly the powers of three (R164). -/
theorem isPow3_iff {n : Nat} : isPow3 n = true ↔ ∃ k, n = 3 ^ k := by
  constructor
  · intro h
    exact ⟨log3 n, (by simpa [isPow3] using h : 3 ^ log3 n = n).symm⟩
  · rintro ⟨k, rfl⟩
    exact isPow3_pow k

theorem isPow3_log3 {n : Nat} (h : isPow3 n = true) : 3 ^ log3 n = n := by
  simpa [isPow3] using h

theorem isPow3_pos {n : Nat} (h : isPow3 n = true) : 0 < n := by
  rw [← isPow3_log3 h]; exact Nat.pow_pos (by omega)

/-- The larger split of `3^k` (R110). -/
theorem mUp_pow (k : Nat) : mUp (3 ^ k) = 3 ^ ((k + 1) / 2) := by
  have : Nat.clog 9 (3 ^ k) = (k + 1) / 2 := by
    apply Nat.le_antisymm
    · rw [Nat.clog_le_iff_le_pow (by omega), show (9 : Nat) = 3 ^ 2 by norm_num, ← Nat.pow_mul]
      exact Nat.pow_le_pow_right (by omega) (by omega)
    · by_contra hlt
      have h2 : Nat.clog 9 (3 ^ k) ≤ (k + 1) / 2 - 1 := by omega
      rw [Nat.clog_le_iff_le_pow (by omega), show (9 : Nat) = 3 ^ 2 by norm_num, ← Nat.pow_mul] at h2
      have h3 := (Nat.pow_le_pow_iff_right (a := 3) (by omega)).1 h2
      omega
  rw [mUp, this]

/-- The smaller split of `3^k` (R130). -/
theorem mDn_pow (k : Nat) : mDn (3 ^ k) = 3 ^ (k / 2) := by
  have : Nat.log 9 (3 ^ k) = k / 2 := by
    have hpos : 3 ^ k ≠ 0 := by positivity
    apply Nat.le_antisymm
    · have h := Nat.pow_log_le_self 9 hpos
      generalize Nat.log 9 (3 ^ k) = l at h ⊢
      rw [show (9 : Nat) = 3 ^ 2 by norm_num, ← Nat.pow_mul] at h
      have h3 := (Nat.pow_le_pow_iff_right (a := 3) (by omega)).1 h
      omega
    · apply Nat.le_log_of_pow_le (by omega)
      rw [show (9 : Nat) = 3 ^ 2 by norm_num, ← Nat.pow_mul]
      exact Nat.pow_le_pow_right (by omega) (by omega)
  rw [mDn, this]

/-! ### The checks -/

theorem leaves_eq_false {base len size : Nat} : leaves base len size = false ↔ base + len ≤ size := by
  simp [leaves]

theorem overlap_eq_false {b1 l1 b2 l2 : Nat} : overlap b1 l1 b2 l2 = false ↔ Apart b1 l1 b2 l2 := by
  simp [overlap, Apart]

theorem ewClash_eq_false {dst src n : Nat} : ewClash dst src n = false ↔ SameOrApart dst src n := by
  simp only [ewClash, SameOrApart, Bool.and_eq_false_iff, overlap_eq_false]
  simp

theorem arenaBad_eq_false {s : State} {need : Nat} : arenaBad s need = false ↔ ArenaGranted s need := by
  simp only [arenaBad, ArenaGranted, Bool.and_eq_false_iff, Bool.or_eq_false_iff, decide_eq_false_iff_not]
  omega

theorem arenaClash_eq_false {s : State} {need base len : Nat} :
    arenaClash s need base len = false ↔ ArenaClear s need base len := by
  simp only [arenaClash, ArenaClear, Bool.and_eq_false_iff, decide_eq_false_iff_not, overlap_eq_false]
  tauto

/-- A list of checks passes exactly where none of them fails. -/
theorem firstFault_eq_none {l : List (Bool × FaultCode)} : firstFault l = none ↔ ∀ p ∈ l, p.1 = false := by
  induction l with
  | nil => simp
  | cons p rest ih => obtain ⟨b, c⟩ := p; cases b <;> simp [ih]

/-- The fault of a list of checks is one of its codes. -/
theorem firstFault_eq_some {l : List (Bool × FaultCode)} {c : FaultCode} (h : firstFault l = some c) :
    ∃ p ∈ l, p.2 = c := by
  induction l with
  | nil => simp at h
  | cons p rest ih =>
    obtain ⟨b, d⟩ := p
    cases b with
    | true => exact ⟨(true, d), by simp, by simpa using h⟩
    | false => obtain ⟨q, hq, hc⟩ := ih (by simpa using h); exact ⟨q, by simp [hq], hc⟩

theorem ewCheck2_eq_none {s : State} {dst src0 src1 n : Nat} : ewCheck2 s dst src0 src1 n = none ↔
    n ≠ 0 ∧ (dst + n ≤ s.cfg.xmSize ∧ src0 + n ≤ s.cfg.xmSize ∧ src1 + n ≤ s.cfg.xmSize) ∧
      SameOrApart dst src0 n ∧ SameOrApart dst src1 n := by
  simp only [ewCheck2, firstFault_eq_none, List.forall_mem_cons, Bool.or_eq_false_iff, leaves_eq_false, ewClash_eq_false,
    beq_eq_false_iff_ne, List.not_mem_nil, false_imp_iff, implies_true, and_true, and_assoc, ne_eq]

theorem ewCheck1_eq_none {s : State} {dst src0 n : Nat} : ewCheck1 s dst src0 n = none ↔
    n ≠ 0 ∧ (dst + n ≤ s.cfg.xmSize ∧ src0 + n ≤ s.cfg.xmSize) ∧ SameOrApart dst src0 n := by
  simp only [ewCheck1, firstFault_eq_none, List.forall_mem_cons, Bool.or_eq_false_iff, leaves_eq_false, ewClash_eq_false,
    beq_eq_false_iff_ne, List.not_mem_nil, false_imp_iff, implies_true, and_true, and_assoc, ne_eq]

theorem embedCheck_eq_none {s : State} {dst src0 n : Nat} : embedCheck s dst src0 n = none ↔
    n ≠ 0 ∧ dst + n ≤ s.cfg.xmSize ∧ src0 + n ≤ s.cfg.cmSize := by
  simp only [embedCheck, firstFault_eq_none, List.forall_mem_cons, Bool.or_eq_false_iff, leaves_eq_false,
    beq_eq_false_iff_ne, List.not_mem_nil, false_imp_iff, implies_true, and_true, ne_eq]

theorem twiddleCheck_eq_none {s : State} {dst src0 m t : Nat} : twiddleCheck s dst src0 m t = none ↔
    (isPow3 m = true ∧ t ≤ 3 * m) ∧ (dst + m ≤ s.cfg.xmSize ∧ src0 + m ≤ s.cfg.xmSize) ∧ Apart dst m src0 m := by
  simp only [twiddleCheck, firstFault_eq_none, List.forall_mem_cons, Bool.or_eq_false_iff, leaves_eq_false,
    overlap_eq_false, List.not_mem_nil, false_imp_iff, implies_true, and_true, decide_eq_false_iff_not,
    Bool.not_eq_eq_eq_not, Bool.not_false, not_lt]

theorem transformCheck_eq_none {s : State} {dst r m : Nat} : transformCheck s dst r m = none ↔
    (isPow3 r = true ∧ isPow3 m = true ∧ r ≤ 3 * m) ∧ dst + r * m ≤ s.cfg.xmSize ∧
      ArenaGranted s (needFft r m) ∧ ArenaClear s (needFft r m) dst (r * m) := by
  simp only [transformCheck, firstFault_eq_none, List.forall_mem_cons, Bool.or_eq_false_iff, leaves_eq_false,
    arenaBad_eq_false, arenaClash_eq_false, List.not_mem_nil, false_imp_iff, implies_true, and_true,
    decide_eq_false_iff_not, Bool.not_eq_eq_eq_not, Bool.not_false, not_lt, and_assoc]

theorem mulmodCheck_eq_none {s : State} {dst src0 src1 n : Nat} : mulmodCheck s dst src0 src1 n = none ↔
    isPow3 n = true ∧ (dst + n ≤ s.cfg.xmSize ∧ src0 + n ≤ s.cfg.xmSize ∧ src1 + n ≤ s.cfg.xmSize) ∧
      ArenaGranted s (needMul n) ∧ Apart dst n src0 n ∧ Apart dst n src1 n ∧ ArenaClear s (needMul n) dst n ∧
      ArenaClear s (needMul n) src0 n ∧ ArenaClear s (needMul n) src1 n := by
  simp only [mulmodCheck, firstFault_eq_none, List.forall_mem_cons, Bool.or_eq_false_iff, leaves_eq_false,
    overlap_eq_false, arenaBad_eq_false, arenaClash_eq_false, List.not_mem_nil, false_imp_iff, implies_true, and_true,
    Bool.not_eq_eq_eq_not, Bool.not_false, and_assoc]

theorem cconvCheck_eq_none {s : State} {dst src0 src1 n : Nat} : cconvCheck s dst src0 src1 n = none ↔
    isPow3 n = true ∧ (dst + n ≤ s.cfg.cmSize ∧ src0 + n ≤ s.cfg.cmSize ∧ src1 + n ≤ s.cfg.cmSize) ∧
      ArenaGranted s (needCc n) := by
  simp only [cconvCheck, firstFault_eq_none, List.forall_mem_cons, Bool.or_eq_false_iff, leaves_eq_false,
    arenaBad_eq_false, List.not_mem_nil, false_imp_iff, implies_true, and_true,
    Bool.not_eq_eq_eq_not, Bool.not_false, and_assoc]

theorem pmulCheck_eq_none {s : State} {dst src0 la src1 lb : Nat} : pmulCheck s dst src0 la src1 lb = none ↔
    (la ≠ 0 ∧ lb ≠ 0) ∧ (dst + (la + lb - 1) ≤ s.cfg.cmSize ∧ src0 + la ≤ s.cfg.cmSize ∧ src1 + lb ≤ s.cfg.cmSize) ∧
      ArenaGranted s (needCc (pow3Ceil (la + lb - 1))) := by
  simp only [pmulCheck, firstFault_eq_none, List.forall_mem_cons, Bool.or_eq_false_iff, leaves_eq_false,
    arenaBad_eq_false, beq_eq_false_iff_ne, List.not_mem_nil, false_imp_iff, implies_true, and_true, ne_eq, and_assoc]

end Sys2Proof.Machine
end

