-- ==== Sys2Proof/Laws/Lengths.lean ====
section
/-! SUPPORT. The lengths of blocks, transforms and products: every command writes as many units as its destination has. -/

namespace Sys2Proof.Machine

/-- Every block of the list has `m` elements. -/
def AllLen (m : Nat) (B : List Block) : Prop := ∀ p ∈ B, p.length = m

theorem AllLen.append {m : Nat} {A B : List Block} (hA : AllLen m A) (hB : AllLen m B) : AllLen m (A ++ B) := by
  intro p hp
  rcases List.mem_append.1 hp with h | h
  · exact hA p h
  · exact hB p h

theorem AllLen.map_range {m r : Nat} {f : Nat → Block} (h : ∀ i, i < r → (f i).length = m) :
    AllLen m ((List.range r).map f) := by
  intro p hp
  obtain ⟨i, hi, rfl⟩ := List.mem_map.1 hp
  exact h i (by simpa using hi)

theorem AllLen.sublist {m : Nat} {A B : List Block} (hB : AllLen m B) (h : ∀ p ∈ A, p ∈ B) : AllLen m A :=
  fun p hp => hB p (h p hp)

/-- Block `j` of a list whose blocks have `m` elements has `m` elements. -/
theorem AllLen.blockAt {m : Nat} {B : List Block} (hB : AllLen m B) {j : Nat} (hj : j < B.length) :
    (blockAt B j).length = m := by
  rw [Machine.blockAt, List.getD_eq_getElem _ _ hj]
  exact hB _ (List.getElem_mem hj)

theorem AllLen.flatten_length {m : Nat} {B : List Block} (hB : AllLen m B) : B.flatten.length = B.length * m := by
  induction B with
  | nil => simp
  | cons p rest ih =>
    rw [List.flatten_cons, List.length_append, hB p (by simp), ih fun q hq => hB q (by simp [hq]), List.length_cons]
    ring

@[simp] theorem twiddle_length (p : Block) (t : Nat) : (twiddle p t).length = p.length := by
  simp [twiddle]

@[simp] theorem badd_length (p q : Block) : (badd p q).length = min p.length q.length := by simp [badd]

@[simp] theorem bwpow_length (p : Block) (q : Nat) : (bwpow p q).length = p.length := by simp [bwpow]

@[simp] theorem bconj_length (p : Block) : (bconj p).length = p.length := by simp [bconj]

@[simp] theorem bsc3_length (p : Block) (k : Nat) : (bsc3 p k).length = p.length := by simp [bsc3]

theorem bfly_length {m : Nat} {A B C : Block} (hA : A.length = m) (hB : B.length = m) (hC : C.length = m) :
    (bfly0 A B C).length = m ∧ (bfly1 A B C).length = m ∧ (bfly2 A B C).length = m := by
  simp [bfly0, bfly1, bfly2, hA, hB, hC]

@[simp] theorem blocksOf_length (p : Block) (r m : Nat) : (blocksOf p r m).length = r := by simp [blocksOf]

theorem allLen_blocksOf {p : Block} {r m : Nat} (h : p.length = r * m) : AllLen m (blocksOf p r m) := by
  apply AllLen.map_range
  intro j hj
  have : (j + 1) * m ≤ r * m := Nat.mul_le_mul_right _ hj
  rw [Nat.succ_mul] at this
  simp only [List.length_take, List.length_drop, h]
  omega

/-- The forward transform keeps the number of blocks and their length. -/
theorem fftLevels_shape (m L : Nat) {B : List Block} (hl : B.length = 3 ^ L) (hm : AllLen m B) :
    (fftLevels m L B).length = 3 ^ L ∧ AllLen m (fftLevels m L B) := by
  induction L generalizing B with
  | zero => exact ⟨hl, hm⟩
  | succ L ih =>
    have h3 : 3 ^ (L + 1) = 3 * 3 ^ L := by ring
    have hb : ∀ i, i < 3 ^ L → ∀ c, c ≤ 2 → (blockAt B (i + c * 3 ^ L)).length = m := by
      intro i hi c hc
      apply hm.blockAt
      rw [hl, h3]
      have : c * 3 ^ L ≤ 2 * 3 ^ L := Nat.mul_le_mul_right _ hc
      omega
    have hbf : ∀ i, i < 3 ^ L → _ := fun i hi => bfly_length
      (by simpa using hb i hi 0 (by omega)) (by simpa using hb i hi 1 (by omega)) (hb i hi 2 (by omega))
    rw [fftLevels]
    have key : ∀ f : Nat → Block, (∀ i, i < 3 ^ L → (f i).length = m) →
        (fftLevels m L ((List.range (3 ^ L)).map f)).length = 3 ^ L ∧
          AllLen m (fftLevels m L ((List.range (3 ^ L)).map f)) :=
      fun f hf => ih (by simp) (AllLen.map_range hf)
    obtain ⟨u1, u2⟩ := key (fun i => bfly0 (blockAt B i) (blockAt B (i + 3 ^ L)) (blockAt B (i + 2 * 3 ^ L)))
      fun i hi => (hbf i hi).1
    obtain ⟨v1, v2⟩ := key (fun i => twiddle (bfly1 (blockAt B i) (blockAt B (i + 3 ^ L)) (blockAt B (i + 2 * 3 ^ L)))
      (i * (3 * m / 3 ^ (L + 1)))) fun i hi => by rw [twiddle_length]; exact (hbf i hi).2.1
    obtain ⟨w1, w2⟩ := key (fun i => twiddle (bfly2 (blockAt B i) (blockAt B (i + 3 ^ L)) (blockAt B (i + 2 * 3 ^ L)))
      (2 * i * (3 * m / 3 ^ (L + 1)))) fun i hi => by rw [twiddle_length]; exact (hbf i hi).2.2
    refine ⟨?_, (u2.append v2).append w2⟩
    simp only [List.length_append]
    rw [u1, v1, w1]
    ring

/-- The inverse transform keeps the number of blocks and their length. -/
theorem ifftLevels_shape (m L : Nat) {X : List Block} (hl : X.length = 3 ^ L) (hm : AllLen m X) :
    (ifftLevels m L X).length = 3 ^ L ∧ AllLen m (ifftLevels m L X) := by
  induction L generalizing X with
  | zero => exact ⟨hl, hm⟩
  | succ L ih =>
    have h3 : 3 ^ (L + 1) = 3 * 3 ^ L := by ring
    obtain ⟨u1, u2⟩ := ih (X := X.take (3 ^ L)) (by simp [hl, h3])
      (hm.sublist fun p hp => List.mem_of_mem_take hp)
    obtain ⟨v1, v2⟩ := ih (X := (X.drop (3 ^ L)).take (3 ^ L)) (by simp [hl, h3]; omega)
      (hm.sublist fun p hp => List.mem_of_mem_drop (List.mem_of_mem_take hp))
    obtain ⟨w1, w2⟩ := ih (X := X.drop (2 * 3 ^ L)) (by simp [hl, h3]; omega)
      (hm.sublist fun p hp => List.mem_of_mem_drop hp)
    have hbf : ∀ i, i < 3 ^ L → _ := fun i hi => bfly_length
      (u2.blockAt (by rw [u1]; exact hi) : _ = m)
      (by rw [twiddle_length]; exact v2.blockAt (by rw [v1]; exact hi) :
        (twiddle (blockAt (ifftLevels m L ((X.drop (3 ^ L)).take (3 ^ L))) i)
          (3 * m - i * (3 * m / 3 ^ (L + 1)))).length = m)
      (by rw [twiddle_length]; exact w2.blockAt (by rw [w1]; exact hi) :
        (twiddle (blockAt (ifftLevels m L (X.drop (2 * 3 ^ L))) i)
          (3 * m - 2 * i * (3 * m / 3 ^ (L + 1)))).length = m)
    rw [ifftLevels]
    refine ⟨by simp [h3]; omega, ((AllLen.map_range fun i hi => (hbf i hi).1).append
      (AllLen.map_range fun i hi => (hbf i hi).2.2)).append (AllLen.map_range fun i hi => (hbf i hi).2.1)⟩

/-- `fft3` on a power of three of blocks keeps their number and length (R94). -/
theorem fft3_shape {m : Nat} {B : List Block} (hr : isPow3 B.length = true) (hm : AllLen m B) :
    (fft3 B m).length = B.length ∧ AllLen m (fft3 B m) := by
  have := fftLevels_shape m (log3 B.length) (B := B) (isPow3_log3 hr).symm hm
  rwa [isPow3_log3 hr] at this

/-- `ifft3` on a power of three of blocks keeps their number and length (R99). -/
theorem ifft3_shape {m : Nat} {X : List Block} (hr : isPow3 X.length = true) (hm : AllLen m X) :
    (ifft3 X m).length = X.length ∧ AllLen m (ifft3 X m) := by
  have := ifftLevels_shape m (log3 X.length) (X := X) (isPow3_log3 hr).symm hm
  rwa [isPow3_log3 hr] at this

@[simp] theorem school_length (a b : Block) : (school a b).length = a.length := by simp [school]

theorem splitMul_length (mul : Block → Block → Block) (a b : Block) (r m : Nat) :
    (splitMul mul a b r m).length = r * m := by
  rw [splitMul, AllLen.flatten_length (m := m) (AllLen.map_range fun i _ => by simp)]
  simp

/-- A power of three is the product of its split (R110). -/
theorem div_mul_mUp {n : Nat} (h : isPow3 n = true) : n / mUp n * mUp n = n := by
  obtain ⟨k, rfl⟩ := isPow3_iff.1 h
  rw [mUp_pow]
  exact Nat.div_mul_cancel (Nat.pow_dvd_pow 3 (by omega))

/-- A power of three is the product of its split (R130). -/
theorem div_mul_mDn {n : Nat} (h : isPow3 n = true) : n / mDn n * mDn n = n := by
  obtain ⟨k, rfl⟩ := isPow3_iff.1 h
  rw [mDn_pow]
  exact Nat.div_mul_cancel (Nat.pow_dvd_pow 3 (by omega))

/-- `mulmod` gives as many elements as its operands have (R111). -/
theorem mulmod_length {a : Block} (b : Block) (h : isPow3 a.length = true) : (mulmod a b).length = a.length := by
  rw [mulmod]
  cases log3 a.length with
  | zero => exact school_length a b
  | succ f =>
    rw [mulmodFuel]
    split
    · exact school_length a b
    · rw [splitMul_length, div_mul_mUp h]

/-- `cconv` gives as many words as its operands have (R131). -/
theorem cconv_length {a : List Word} (b : List Word) (h : isPow3 a.length = true) : (cconv a b).length = a.length := by
  have key : ∀ (r m : Nat) (f : Nat → Nat → Word),
      ((List.range r).map fun j => (List.range m).map fun i => f j i).flatten.length = r * m := by
    intro r m f
    simp [List.length_flatten, Function.comp_def]
  rw [cconv, key, div_mul_mDn h]

/-- `pow3Ceil` is a power of three and is large enough (R139). -/
theorem le_pow3Ceil (v : Nat) : v ≤ pow3Ceil v := Nat.le_pow_clog (by omega) v

@[simp] theorem isPow3_pow3Ceil (v : Nat) : isPow3 (pow3Ceil v) = true := isPow3_pow _

theorem padTo_length {p : List Word} {s : Nat} (h : p.length ≤ s) : (padTo p s).length = s := by
  simp [padTo]; omega

/-- `pmul` gives `lenA + lenB − 1` words (R140). -/
theorem pmul_length {p q : List Word} (hq : q.length ≠ 0) :
    (pmul p q).length = p.length + q.length - 1 := by
  have h1 : p.length ≤ pow3Ceil (p.length + q.length - 1) := Nat.le_trans (by omega) (le_pow3Ceil _)
  have h2 := padTo_length h1
  rw [pmul, List.length_take, cconv_length _ (by rw [h2]; simp), h2]
  exact Nat.min_eq_left (le_pow3Ceil _)

end Sys2Proof.Machine
end

