-- ==== Sys2Proof/Laws/Effects.lean ====
section
/-! SUPPORT. What the shared effects of the commands do: the units written, and every other unit as it was. -/

namespace Sys2Proof.Machine

section

variable (s : State)

/-- A block read at index `i` is the unit at `base + i`. -/
theorem State.readXm_at {base n i : Nat} (h : i < n) : Block.at (s.readXm base n) i = s.xmAt (base + i) := by
  rw [Block.at, List.getD_eq_getElem _ _ (by simpa using h), State.readXm_getElem]

/-- A word sequence read at index `i` is the unit at `base + i`. -/
theorem State.readCm_wordAt {base n i : Nat} (h : i < n) : wordAt (s.readCm base n) i = s.cmAt (base + i) := by
  rw [wordAt, List.getD_eq_getElem _ _ (by simpa using h), State.readCm_getElem]

/-- After `MemWrite(XM, …)` unit `base + i` holds coefficient `i` of what was written. -/
theorem State.xmAt_writeXm_at {base : Nat} {vs : Block} {i : Nat} (h : i < vs.length) :
    (s.writeXm base vs).xmAt (base + i) = vs.at i := by
  rw [State.xmAt_writeXm_in s base vs h, Block.at, List.getD_eq_getElem _ _ h]

/-- After `MemWrite(CM, …)` unit `base + i` holds word `i` of what was written. -/
theorem State.cmAt_writeCm_wordAt {base : Nat} {vs : List Word} {i : Nat} (h : i < vs.length) :
    (s.writeCm base vs).cmAt (base + i) = wordAt vs i := by
  rw [State.cmAt_writeCm_in s base vs h, wordAt, List.getD_eq_getElem _ _ h]

/-- Element `i` of a two-source element-wise command (R47: computed from the state before). -/
theorem mapXm2_xmAt_in (f : Elt → Elt → Elt) (dst src0 src1 : Nat) {n i : Nat} (h : i < n) :
    (mapXm2 f dst src0 src1 n s).xmAt (dst + i) = f (s.xmAt (src0 + i)) (s.xmAt (src1 + i)) := by
  rw [mapXm2, State.xmAt_writeXm_in _ _ _ (by simpa using h), List.getElem_zipWith, State.readXm_getElem,
    State.readXm_getElem]

/-- A two-source element-wise command changes no other element. -/
theorem mapXm2_xmAt_out (f : Elt → Elt → Elt) (dst src0 src1 n : Nat) {e : Nat} (h : ¬ (dst ≤ e ∧ e < dst + n)) :
    (mapXm2 f dst src0 src1 n s).xmAt e = s.xmAt e :=
  State.xmAt_writeXm_out _ _ _ (by simpa using h)

/-- A two-source element-wise command changes XM alone. -/
theorem mapXm2_frame (f : Elt → Elt → Elt) (dst src0 src1 n : Nat) :
    mapXm2 f dst src0 src1 n s = { s with xm := (mapXm2 f dst src0 src1 n s).xm } := rfl

/-- Element `i` of a one-source element-wise command. -/
theorem mapXm1_xmAt_in (f : Elt → Elt) (dst src0 : Nat) {n i : Nat} (h : i < n) :
    (mapXm1 f dst src0 n s).xmAt (dst + i) = f (s.xmAt (src0 + i)) := by
  rw [mapXm1, State.xmAt_writeXm_in _ _ _ (by simpa using h), List.getElem_map, State.readXm_getElem]

/-- A one-source element-wise command changes no other element. -/
theorem mapXm1_xmAt_out (f : Elt → Elt) (dst src0 n : Nat) {e : Nat} (h : ¬ (dst ≤ e ∧ e < dst + n)) :
    (mapXm1 f dst src0 n s).xmAt e = s.xmAt e :=
  State.xmAt_writeXm_out _ _ _ (by simpa using h)

/-- A one-source element-wise command changes XM alone. -/
theorem mapXm1_frame (f : Elt → Elt) (dst src0 n : Nat) :
    mapXm1 f dst src0 n s = { s with xm := (mapXm1 f dst src0 n s).xm } := rfl

/-- The blocks a transform command reads are the blocks of its buffer. -/
theorem blocksOf_readXm (base r m : Nat) : blocksOf (s.readXm base (r * m)) r m = blocksAt s base r m := by
  apply List.ext_getElem
  · simp [blocksAt]
  · intro j h1 h2
    have hj : j < r := by simpa [blocksAt] using h2
    have hjm : (j + 1) * m ≤ r * m := Nat.mul_le_mul_right _ hj
    rw [Nat.succ_mul] at hjm
    apply List.ext_getElem
    · simp [blocksOf, blocksAt]; omega
    · intro i h3 h4
      simp [blocksOf, blocksAt, State.readXm, Nat.add_assoc]

/-- Element `j·m + i` of joined blocks of length `m` is element `i` of block `j`. -/
theorem flatten_at {m : Nat} {B : List Block} (hB : AllLen m B) {j i : Nat} (hj : j < B.length) (hi : i < m) :
    Block.at B.flatten (j * m + i) = (blockAt B j).at i := by
  induction B generalizing j with
  | nil => simp at hj
  | cons p rest ih =>
    have hp : p.length = m := hB p (by simp)
    cases j with
    | zero =>
      rw [List.flatten_cons, Block.at, List.getD_append _ _ _ _ (by omega)]
      simp [blockAt, Block.at]
    | succ j =>
      have h1 : p.length ≤ (j + 1) * m + i := by rw [Nat.succ_mul]; omega
      rw [List.flatten_cons, Block.at, List.getD_append_right _ _ _ _ h1,
        show (j + 1) * m + i - p.length = j * m + i by rw [Nat.succ_mul]; omega]
      have := ih (fun q hq => hB q (by simp [hq])) (j := j) (by simpa using hj)
      simpa [blockAt, Block.at] using this

end

end Sys2Proof.Machine
end

