-- ==== Sys2Proof/Laws/Encoding.lean ====
section
/-! SUPPORT. The bit places of a descriptor: what the fields of a packed descriptor are (R50), and what a packed word is as a number. -/

namespace Sys2Proof

/-- The number of a concatenation (R33). -/
theorem toNat_append_add {v w : Nat} (x : BitVec v) (y : BitVec w) : (x ++ y).toNat = x.toNat * 2 ^ w + y.toNat := by
  rw [BitVec.toNat_append, ← Nat.shiftLeft_add_eq_or_of_lt y.isLt, Nat.shiftLeft_eq]

/-- Each field of a packed descriptor is the field packed, cut to its width. -/
theorem Fields.fields_pack (f : Fields) : f.pack.fields =
    { opc := f.opc % 2 ^ 8, k := f.k % 2 ^ 8, rsv := f.rsv % 2 ^ 16, n := f.n % 2 ^ 32,
      dst := f.dst % 2 ^ 32, src0 := f.src0 % 2 ^ 32, src1 := f.src1 % 2 ^ 32, aux := f.aux % 2 ^ 32 } := by
  simp only [Fields.pack, Descriptor.fields, Fields.mk.injEq, BitVec.extractLsb'_toNat, toNat_append_add,
    BitVec.toNat_ofNat, Nat.shiftRight_eq_div_pow]
  omega

/-- A descriptor is the packing of its fields: every bit belongs to one of them. -/
theorem Descriptor.pack_fields (d : Descriptor) : d.fields.pack = d := by
  obtain ⟨w0, w1, w2⟩ := d
  have h0 := w0.isLt
  have h1 := w1.isLt
  have h2 := w2.isLt
  simp only [Fields.pack, Descriptor.fields, Descriptor.mk.injEq, ← BitVec.toNat_inj, toNat_append_add,
    BitVec.toNat_ofNat, BitVec.extractLsb'_toNat, Nat.shiftRight_eq_div_pow]
  omega

end Sys2Proof
end

