-- ==== Sys2Proof/Laws/PerInstr.lean ====
section
/-! SUPPORT. Statements about every command as syntax, one lemma per constructor of Instr. -/

namespace Sys2Proof.Laws

/-- The `OPC` field of the encoded descriptor is the opcode of the command's row (R53), whatever the operands are, and `RSV` is 0
(R55). -/
def OpcodeByte.Statement (i : Instr) : Prop :=
  (encode i).fields.opc = i.op.code ∧ (encode i).fields.rsv = 0

theorem OpcodeByte.nop : OpcodeByte.Statement .nop := by
  simp [OpcodeByte.Statement, encode, Fields.fields_pack, Instr.fields, Instr.op, Op.code]

theorem OpcodeByte.halt : OpcodeByte.Statement .halt := by
  simp [OpcodeByte.Statement, encode, Fields.fields_pack, Instr.fields, Instr.op, Op.code]

theorem OpcodeByte.eadd (xd xs0 xs1 len : Nat) : OpcodeByte.Statement (.eadd xd xs0 xs1 len) := by
  simp [OpcodeByte.Statement, encode, Fields.fields_pack, Instr.fields, Instr.op, Op.code]

theorem OpcodeByte.esub (xd xs0 xs1 len : Nat) : OpcodeByte.Statement (.esub xd xs0 xs1 len) := by
  simp [OpcodeByte.Statement, encode, Fields.fields_pack, Instr.fields, Instr.op, Op.code]

theorem OpcodeByte.eneg (xd xs0 len : Nat) : OpcodeByte.Statement (.eneg xd xs0 len) := by
  simp [OpcodeByte.Statement, encode, Fields.fields_pack, Instr.fields, Instr.op, Op.code]

theorem OpcodeByte.emul (xd xs0 xs1 len : Nat) : OpcodeByte.Statement (.emul xd xs0 xs1 len) := by
  simp [OpcodeByte.Statement, encode, Fields.fields_pack, Instr.fields, Instr.op, Op.code]

theorem OpcodeByte.econj (xd xs0 len : Nat) : OpcodeByte.Statement (.econj xd xs0 len) := by
  simp [OpcodeByte.Statement, encode, Fields.fields_pack, Instr.fields, Instr.op, Op.code]

theorem OpcodeByte.eemb (xd cs0 len : Nat) : OpcodeByte.Statement (.eemb xd cs0 len) := by
  simp [OpcodeByte.Statement, encode, Fields.fields_pack, Instr.fields, Instr.op, Op.code]

theorem OpcodeByte.esc3 (xd xs0 len k : Nat) : OpcodeByte.Statement (.esc3 xd xs0 len k) := by
  simp [OpcodeByte.Statement, encode, Fields.fields_pack, Instr.fields, Instr.op, Op.code]

theorem OpcodeByte.twid (xd xs0 m t : Nat) : OpcodeByte.Statement (.twid xd xs0 m t) := by
  simp [OpcodeByte.Statement, encode, Fields.fields_pack, Instr.fields, Instr.op, Op.code]

theorem OpcodeByte.fft3 (xd r m : Nat) : OpcodeByte.Statement (.fft3 xd r m) := by
  simp [OpcodeByte.Statement, encode, Fields.fields_pack, Instr.fields, Instr.op, Op.code]

theorem OpcodeByte.ifft3 (xd r m : Nat) : OpcodeByte.Statement (.ifft3 xd r m) := by
  simp [OpcodeByte.Statement, encode, Fields.fields_pack, Instr.fields, Instr.op, Op.code]

theorem OpcodeByte.mulmod (xd xs0 xs1 n : Nat) : OpcodeByte.Statement (.mulmod xd xs0 xs1 n) := by
  simp [OpcodeByte.Statement, encode, Fields.fields_pack, Instr.fields, Instr.op, Op.code]

theorem OpcodeByte.cconv (cd cs0 cs1 n : Nat) : OpcodeByte.Statement (.cconv cd cs0 cs1 n) := by
  simp [OpcodeByte.Statement, encode, Fields.fields_pack, Instr.fields, Instr.op, Op.code]

theorem OpcodeByte.pmul (cd cs0 lenA cs1 lenB : Nat) : OpcodeByte.Statement (.pmul cd cs0 lenA cs1 lenB) := by
  simp [OpcodeByte.Statement, encode, Fields.fields_pack, Instr.fields, Instr.op, Op.code]

end Sys2Proof.Laws
end

