-- ==== Sys2Proof/Machine/Assembler.lean ====
section
/-! DEFINITION. The assembler syntax of spec 30_encoding.md R59 and the pseudo-instruction of R60: a line of text is a mnemonic
and positional operands separated by commas; a listing is placed in KM from address 0. -/

namespace Sys2Proof.Machine

/-- The mnemonic of a command (R53). -/
def mnemonic : Op → String
  | .nop => "NOP"
  | .halt => "HALT"
  | .eadd => "EADD"
  | .esub => "ESUB"
  | .eneg => "ENEG"
  | .emul => "EMUL"
  | .econj => "ECONJ"
  | .eemb => "EEMB"
  | .esc3 => "ESC3"
  | .twid => "TWID"
  | .fft3 => "FFT3"
  | .ifft3 => "IFFT3"
  | .mulmod => "MULMOD"
  | .cconv => "CCONV"
  | .pmul => "PMUL"

/-- The operands of a command, in the order of R59. -/
def operands : Instr → List Nat
  | .nop => []
  | .halt => []
  | .eadd xd xs0 xs1 len => [xd, xs0, xs1, len]
  | .esub xd xs0 xs1 len => [xd, xs0, xs1, len]
  | .eneg xd xs0 len => [xd, xs0, len]
  | .emul xd xs0 xs1 len => [xd, xs0, xs1, len]
  | .econj xd xs0 len => [xd, xs0, len]
  | .eemb xd cs0 len => [xd, cs0, len]
  | .esc3 xd xs0 len k => [xd, xs0, len, k]
  | .twid xd xs0 m t => [xd, xs0, m, t]
  | .fft3 xd r m => [xd, r, m]
  | .ifft3 xd r m => [xd, r, m]
  | .mulmod xd xs0 xs1 n => [xd, xs0, xs1, n]
  | .cconv cd cs0 cs1 n => [cd, cs0, cs1, n]
  | .pmul cd cs0 lenA cs1 lenB => [cd, cs0, lenA, cs1, lenB]

/-- The command that a mnemonic and its operands spell (R59, with `ECPY` of R60), if there is one. -/
def ofOperands (mn : List Char) (ops : List Nat) : Option Instr :=
  match mn, ops with
  | ['N', 'O', 'P'], [] => some .nop
  | ['H', 'A', 'L', 'T'], [] => some .halt
  | ['E', 'A', 'D', 'D'], [xd, xs0, xs1, len] => some (.eadd xd xs0 xs1 len)
  | ['E', 'S', 'U', 'B'], [xd, xs0, xs1, len] => some (.esub xd xs0 xs1 len)
  | ['E', 'N', 'E', 'G'], [xd, xs0, len] => some (.eneg xd xs0 len)
  | ['E', 'M', 'U', 'L'], [xd, xs0, xs1, len] => some (.emul xd xs0 xs1 len)
  | ['E', 'C', 'O', 'N', 'J'], [xd, xs0, len] => some (.econj xd xs0 len)
  | ['E', 'E', 'M', 'B'], [xd, cs0, len] => some (.eemb xd cs0 len)
  | ['E', 'S', 'C', '3'], [xd, xs0, len, k] => some (.esc3 xd xs0 len k)
  | ['E', 'C', 'P', 'Y'], [xd, xs0, len] => some (.ecpy xd xs0 len)
  | ['T', 'W', 'I', 'D'], [xd, xs0, m, t] => some (.twid xd xs0 m t)
  | ['F', 'F', 'T', '3'], [xd, r, m] => some (.fft3 xd r m)
  | ['I', 'F', 'F', 'T', '3'], [xd, r, m] => some (.ifft3 xd r m)
  | ['M', 'U', 'L', 'M', 'O', 'D'], [xd, xs0, xs1, n] => some (.mulmod xd xs0 xs1 n)
  | ['C', 'C', 'O', 'N', 'V'], [cd, cs0, cs1, n] => some (.cconv cd cs0 cs1 n)
  | ['P', 'M', 'U', 'L'], [cd, cs0, lenA, cs1, lenB] => some (.pmul cd cs0 lenA cs1 lenB)
  | _, _ => none

/-- The value of a digit in base 16, if the character is one. -/
def digitOf (c : Char) : Option Nat :=
  let n := c.toNat
  if 48 ≤ n ∧ n ≤ 57 then some (n - 48)
  else if 65 ≤ n ∧ n ≤ 70 then some (n - 55)
  else if 97 ≤ n ∧ n ≤ 102 then some (n - 87)
  else none

/-- The number that digits spell in a base, continuing from `acc`. -/
def digitsValue (base : Nat) : Nat → List Char → Option Nat
  | acc, [] => some acc
  | acc, c :: cs =>
    match digitOf c with
    | some d => if d < base then digitsValue base (base * acc + d) cs else none
    | none => none

/-- A number, decimal or hexadecimal with `0x` (R59). -/
def numberOf (cs : List Char) : Option Nat :=
  match cs with
  | [] => none
  | '0' :: 'x' :: d :: ds => digitsValue 16 0 (d :: ds)
  | d :: ds => digitsValue 10 0 (d :: ds)

/-- Without spaces at either end. -/
def trimmed (cs : List Char) : List Char :=
  ((cs.dropWhile (· == ' ')).reverse.dropWhile (· == ' ')).reverse

/-- The pieces between commas. -/
def commaParts : List Char → List (List Char)
  | [] => [[]]
  | c :: cs =>
    match commaParts cs with
    | [] => [[c]]
    | p :: ps => if c = ',' then [] :: p :: ps else (c :: p) :: ps

/-- One line of a listing (R59): a comment runs from `;` to the end. `some none` is a line without a command; `none` is a line
the syntax does not admit, a command that does not fit its fields among them. -/
def assembleLine (line : List Char) : Option (Option Instr) :=
  let text := trimmed (line.takeWhile (· != ';'))
  let mn := text.takeWhile (· != ' ')
  let rest := trimmed (text.dropWhile (· != ' '))
  if text = [] then some none
  else
    match (if rest = [] then some [] else (commaParts rest).mapM fun p => numberOf (trimmed p)) with
    | none => none
    | some ops =>
      match ofOperands mn ops with
      | none => none
      | some i => if i.wf then some (some i) else none

/-- The commands of a listing, in order (R59). -/
def assembleListing : List (List Char) → Option (List Instr)
  | [] => some []
  | line :: rest =>
    match assembleLine line, assembleListing rest with
    | some (some i), some is => some (i :: is)
    | some none, some is => some is
    | _, _ => none

/-- The command stream placed in KM from address `base`, 0 for a listing that says nothing else (R59). -/
def State.placeCommands (s : State) (base : Nat) (is : List Instr) : State :=
  s.setKm (s.km.writeFrom base (is.map encode))

end Sys2Proof.Machine
end

