-- ==== Sys2Proof/Tests/Slice0.lean ====
section
/-! SUPPORT. Tests of the model. Expected values are the spec's own vectors (95_test_vectors.md) or hand calculation from its rules. -/

namespace Sys2Proof.Tests

open Sys2Proof.Machine

/-! ### Helpers -/

/-- A running machine of the given sizes with XM, CM and KM filled from address 0. -/
def machine (xs cs ks : Nat) (x : List Elt) (c : List Word) (k : List Instr) : State :=
  { State.resetOf ⟨xs, cs, ks, 0, 0, 0, 0⟩ with
    status := .run
    xm := Memory.writeFrom [] 0 x
    cm := Memory.writeFrom [] 0 c
    km := Memory.writeFrom [] 0 (k.map encode) }

/-- The same machine with an arena. -/
def arena (base size : Nat) (s : State) : State :=
  { s with arenaBase := BitVec.ofNat 32 base, arenaSize := BitVec.ofNat 33 size }

/-- The element `(k, 0)` of a plain number, as the vectors write it. -/
def el (k : Int) : Elt := ⟨BitVec.ofInt 64 k, 0⟩

/-- The element `(a, b)`. -/
def pr (a b : Int) : Elt := ⟨BitVec.ofInt 64 a, BitVec.ofInt 64 b⟩

/-- A word that stands for an integer. -/
def wd (k : Int) : Word := BitVec.ofInt 64 k

/-- The step answers a next state with the property. -/
def stepsTo (s : State) (p : State → Bool) : Bool :=
  match step s with
  | .next t => p t
  | _ => false

/-- The step takes the fault with the given code and writes nothing (V8: `FCP = CP`, `FINFO = W0`). -/
def faultsWith (s : State) (c : FaultCode) : Bool :=
  stepsTo s fun t => decide (t = { s with status := .fault, fcode := c.code, fcp := s.cp, finfo := (s.kmAt s.cp.toNat).w0 })

/-! ### Well-formedness: each check refuses a term -/

theorem test_wf_addresses : [Instr.eadd (2 ^ 32) 0 0 1, .eadd 0 (2 ^ 32) 0 1, .eadd 0 0 (2 ^ 32) 1, .eadd 0 0 0 (2 ^ 32),
    .esub (2 ^ 32) 0 0 1, .esub 0 (2 ^ 32) 0 1, .esub 0 0 (2 ^ 32) 1, .esub 0 0 0 (2 ^ 32),
    .emul (2 ^ 32) 0 0 1, .emul 0 (2 ^ 32) 0 1, .emul 0 0 (2 ^ 32) 1, .emul 0 0 0 (2 ^ 32),
    .eneg (2 ^ 32) 0 1, .eneg 0 (2 ^ 32) 1, .eneg 0 0 (2 ^ 32),
    .econj (2 ^ 32) 0 1, .econj 0 (2 ^ 32) 1, .econj 0 0 (2 ^ 32),
    .eemb (2 ^ 32) 0 1, .eemb 0 (2 ^ 32) 1, .eemb 0 0 (2 ^ 32)].any Instr.wf = false := by decide

theorem test_wf_lengths : [Instr.esc3 (2 ^ 32) 0 1 0, .esc3 0 (2 ^ 32) 1 0, .esc3 0 0 (2 ^ 32) 0,
    .twid (2 ^ 32) 0 1 0, .twid 0 (2 ^ 32) 1 0, .twid 0 0 (2 ^ 32) 0, .twid 0 0 1 (2 ^ 32),
    .fft3 (2 ^ 32) 1 1, .fft3 0 (2 ^ 32) 1, .fft3 0 1 (2 ^ 32), .ifft3 (2 ^ 32) 1 1, .ifft3 0 (2 ^ 32) 1, .ifft3 0 1 (2 ^ 32),
    .mulmod (2 ^ 32) 0 0 1, .mulmod 0 (2 ^ 32) 0 1, .mulmod 0 0 (2 ^ 32) 1, .mulmod 0 0 0 (2 ^ 32),
    .cconv (2 ^ 32) 0 0 1, .cconv 0 (2 ^ 32) 0 1, .cconv 0 0 (2 ^ 32) 1, .cconv 0 0 0 (2 ^ 32),
    .pmul (2 ^ 32) 0 1 0 1, .pmul 0 (2 ^ 32) 1 0 1, .pmul 0 0 (2 ^ 32) 0 1, .pmul 0 0 1 (2 ^ 32) 1,
    .pmul 0 0 1 0 (2 ^ 32)].any Instr.wf = false := by decide

theorem test_wf_exponent : (Instr.esc3 0 0 1 256).wf = false := by decide

theorem test_wf_accepts : [Instr.nop, .halt, .eadd 2 0 1 1, .esc3 0 0 1 255, .pmul (2 ^ 32 - 1) 0 3 8 3].all Instr.wf = true := by
  decide

/-! ### Decoding: the words of table V9, written out from the encoding R50 -/

theorem test_decode_nop : decode ⟨0x0000000000000000, 0, 0⟩ = .ok .nop := by decide
theorem test_decode_halt : decode ⟨0x0000000000000001, 0, 0⟩ = .ok .halt := by decide
theorem test_decode_eadd :
    decode ⟨0x0000000100000010, 0x0000000000000002, 0x0000000000000001⟩ = .ok (.eadd 2 0 1 1) := by decide
theorem test_decode_esub :
    decode ⟨0x0000000900000011, 0x0000000000000000, 0x0000000000000010⟩ = .ok (.esub 0 0 16 9) := by decide
theorem test_decode_eneg :
    decode ⟨0x0000000100000012, 0x0000000000000001, 0x0000000000000000⟩ = .ok (.eneg 1 0 1) := by decide
theorem test_decode_emul :
    decode ⟨0x0000000100000013, 0x0000000000000002, 0x0000000000000001⟩ = .ok (.emul 2 0 1 1) := by decide
theorem test_decode_econj :
    decode ⟨0x0000000300000014, 0x000000030000000C, 0x0000000000000000⟩ = .ok (.econj 12 3 3) := by decide
theorem test_decode_eemb :
    decode ⟨0x0000000900000015, 0x0000000900000009, 0x0000000000000000⟩ = .ok (.eemb 9 9 9) := by decide
theorem test_decode_esc3 :
    decode ⟨0x0000000900000116, 0x0000001200000012, 0x0000000000000000⟩ = .ok (.esc3 18 18 9 1) := by decide
theorem test_decode_ecpy :
    decode ⟨0x0000000900000016, 0x0000000000000010, 0x0000000000000000⟩ = .ok (.ecpy 16 0 9) := by decide
theorem test_decode_twid :
    decode ⟨0x0000000300000020, 0x0000000000000009, 0x0000000400000000⟩ = .ok (.twid 9 0 3 4) := by decide
theorem test_decode_fft3 :
    decode ⟨0x0000000300000030, 0x0000000000000000, 0x0000000300000000⟩ = .ok (.fft3 0 3 3) := by decide
theorem test_decode_ifft3 :
    decode ⟨0x0000000300000031, 0x0000000000000012, 0x0000000300000000⟩ = .ok (.ifft3 18 3 3) := by decide
theorem test_decode_mulmod :
    decode ⟨0x0000000300000040, 0x0000000300000015, 0x000000000000000C⟩ = .ok (.mulmod 21 3 12 3) := by decide
theorem test_decode_cconv :
    decode ⟨0x0000000900000050, 0x0000000000000012, 0x0000000000000009⟩ = .ok (.cconv 18 0 9 9) := by decide
theorem test_decode_pmul :
    decode ⟨0x0000000300000051, 0x0000000000000010, 0x0000000300000008⟩ = .ok (.pmul 16 0 3 8 3) := by decide

/-- V8: illegal opcodes, a reserved bit, an unused field; the opcode is judged first. -/
theorem test_decode_rejects :
    decode ⟨0x02, 0, 0⟩ = .error .badOpcode ∧ decode ⟨0xFF, 0, 0⟩ = .error .badOpcode ∧
      decode ⟨0x00010000, 0, 0⟩ = .error .badReserved ∧ decode ⟨0x0000000100000000, 0, 0⟩ = .error .badReserved ∧
      decode ⟨1, 5, 0⟩ = .error .badReserved ∧ decode ⟨0x0000000100000110, 0, 0⟩ = .error .badReserved ∧
      decode ⟨0x00010002, 0, 0⟩ = .error .badOpcode := by decide

/-- R50: the table's 192-bit number has `W0` in bits [63:0]. -/
theorem test_decodeTableWord :
    decodeTableWord 192 0x000000000000000C_0000000300000015_0000000300000040 = some (.mulmod 21 3 12 3) ∧
      decodeTableWord 192 0x02 = none := by decide

/-- The word placed by `withFetchWord` is the one the first step after reset runs. -/
theorem test_withFetchWord_runs_halt :
    stepsTo (State.reset.withFetchWord 192 1) (fun t => decide (t.status = .halted ∧ t.cp = 1)) = true := by decide

/-! ### Assembler (R59, R60) -/

theorem test_assemble_pmul : assembleLine ['P', 'M', 'U', 'L', ' ', '1', '6', ',', ' ', '0', ',', ' ', '3', ',', ' ', '8', ',', ' ',
    '0', 'x', '3', ' ', ';', ' ', 'P', '3'] = some (some (.pmul 16 0 3 8 3)) := by decide

theorem test_assemble_ecpy :
    assembleLine ['E', 'C', 'P', 'Y', ' ', '1', '6', ',', '0', ',', '9'] = some (some (.esc3 16 0 9 0)) := by decide

/-! ### One step of each command (rule examples and tables V1 to V6) -/

theorem test_nop : stepsTo { machine 8 8 8 [] [] [.nop, .nop, .nop, .nop, .nop] with cp := 4 }
    (fun t => decide (t = { machine 8 8 8 [] [] [.nop, .nop, .nop, .nop, .nop] with cp := 5 })) = true := by decide

theorem test_halt : stepsTo { machine 8 8 8 [] [] [.nop, .nop, .halt] with cp := 2, irqEn := 1 }
    (fun t => decide (t.status = .halted ∧ t.cp = 3) && t.irq) = true := by decide

/-- R78: wraps in both components. -/
theorem test_eadd : stepsTo (machine 8 8 8 [pr (-1) 5, pr 1 (-5)] [] [.eadd 2 0 1 1])
    (fun t => decide (t.xmAt 2 = pr 0 0 ∧ t.cp = 1)) = true := by decide

/-- R78: `DST = SRC0 = SRC1` doubles in place. -/
theorem test_eadd_in_place : stepsTo (machine 8 8 8 [pr 1 2, pr 3 4] [] [.eadd 0 0 0 2])
    (fun t => decide (t.xmAt 0 = pr 2 4 ∧ t.xmAt 1 = pr 6 8)) = true := by decide

/-- R79 (SRC0 minus SRC1). -/
theorem test_esub : stepsTo (machine 8 8 8 [pr 0 0, pr 1 1] [] [.esub 2 0 1 1])
    (fun t => decide (t.xmAt 2 = pr (-1) (-1))) = true := by decide

/-- V1, the full-width pair. -/
theorem test_emul : stepsTo (machine 8 8 8
    [⟨0x123456789ABCDEF0, 0x0FEDCBA987654321⟩, ⟨0xDEADBEEFCAFEBABE, 0x0123456789ABCDEF⟩] [] [.emul 2 0 1 1])
    (fun t => decide (t.xmAt 2 = ⟨0xC94531C5A5F1BD51, 0xA2646E71C58005BF⟩)) = true := by decide

/-- V1, the full-width element. -/
theorem test_eneg : stepsTo (machine 8 8 8 [⟨0x123456789ABCDEF0, 0x0FEDCBA987654321⟩] [] [.eneg 1 0 1])
    (fun t => decide (t.xmAt 1 = ⟨0xEDCBA98765432110, 0xF0123456789ABCDF⟩)) = true := by decide

/-- V1, the full-width element. -/
theorem test_econj : stepsTo (machine 8 8 8 [⟨0x123456789ABCDEF0, 0x0FEDCBA987654321⟩] [] [.econj 1 0 1])
    (fun t => decide (t.xmAt 1 = ⟨0x02468ACF13579BCF, 0xF0123456789ABCDF⟩)) = true := by decide

/-- R83. -/
theorem test_eemb : stepsTo (machine 8 8 8 [] [0, 0, 0, 0, wd (-1)] [.eemb 0 4 1])
    (fun t => decide (t.xmAt 0 = ⟨0xFFFFFFFFFFFFFFFF, 0⟩)) = true := by decide

/-- V1, the full-width element, and R84 with `K = 2`. -/
theorem test_esc3 : stepsTo (machine 8 8 8 [⟨0x123456789ABCDEF0, 0x0FEDCBA987654321⟩] [] [.esc3 1 0 1 1])
    (fun t => decide (t.xmAt 1 = ⟨0x0611722833944A50, 0x054F43E32D21C10B⟩)) = true ∧
    stepsTo (machine 8 8 8 [pr 9 27] [] [.esc3 0 0 1 2]) (fun t => decide (t.xmAt 0 = pr 1 3)) = true := by decide

/-- V2, `m = 3`, `t = 4`. -/
theorem test_twid : stepsTo (machine 8 8 8 [el 1, el 2, el 3] [] [.twid 3 0 3 4])
    (fun t => decide (t.readXm 3 3 = [pr (-3) (-3), pr 0 1, pr 0 2])) = true := by decide

/-- V2, `m = 3`, `t = 8`, and the identity shift `t = 9`. -/
theorem test_twid_ends : stepsTo (machine 8 8 8 [el 1, el 2, el 3] [] [.twid 3 0 3 8])
    (fun t => decide (t.readXm 3 3 = [el 2, el 3, pr (-1) (-1)])) = true ∧
    stepsTo (machine 8 8 8 [el 1, el 2, el 3] [] [.twid 3 0 3 9])
    (fun t => decide (t.readXm 3 3 = [el 1, el 2, el 3])) = true := by decide

/-- V3, `FFT3 x, 3, 3`, and the clobber range, which holds ANY. -/
theorem test_fft3 : stepsTo (arena 9 9 (machine 64 8 8 ((List.range 9).map fun i => el (i + 1)) [] [.fft3 0 3 3]))
    (fun t => decide (t.readXm 0 9 = [el 12, el 15, el 18, pr (-6) (-3), pr (-6) (-3), pr (-6) (-3),
      pr (-3) 3, pr (-3) 3, pr (-3) 3] ∧ t.xm.get 9 = .any 1 ∧ t.xm.get 17 = .any 1 ∧ t.xm.get 18 = .any 0)) = true := by
  decide

/-- V3: `FFT3 x, 9, 3` of the polynomial `y` shows the sign of the exponent, the root and the digit reversal. -/
theorem test_fft3_digit_reversed : fft3 (blocksOf ((List.range 27).map fun i => if i = 3 then el 1 else el 0) 9 3) 3 =
    [[el 1, el 0, el 0], [pr 0 1, el 0, el 0], [pr (-1) (-1), el 0, el 0],
     [el 0, el 1, el 0], [el 0, pr 0 1, el 0], [el 0, pr (-1) (-1), el 0],
     [el 0, el 0, el 1], [el 0, el 0, pr 0 1], [el 0, el 0, pr (-1) (-1)]] := by decide

/-- V3, `IFFT3 x, 3, 3`: three times the original, in natural order. -/
theorem test_ifft3 : stepsTo (arena 9 9 (machine 64 8 8 [el 12, el 15, el 18, pr (-6) (-3), pr (-6) (-3), pr (-6) (-3),
    pr (-3) 3, pr (-3) 3, pr (-3) 3] [] [.ifft3 0 3 3]))
    (fun t => decide (t.readXm 0 9 = (List.range 9).map fun i => el (3 * (i + 1)))) = true := by decide

/-- V5, row 4. -/
theorem test_mulmod : stepsTo (machine 16 8 8 [pr (-1) 0, pr 0 1, pr 2 3, pr 1 1, pr 0 (-1), pr 5 0] [] [.mulmod 6 0 3 3])
    (fun t => decide (t.readXm 6 3 = [pr (-7) (-4), pr (-16) (-4), pr (-5) 3])) = true := by decide

/-- V6, `CCONV`, `n = 3`, with the destination on the first source, and its arena (`NEED_CC(3) = 12`). -/
theorem test_cconv : stepsTo (arena 2 12 (machine 64 16 8 [] [1, 2, 3, 4, 5, 6] [.cconv 0 0 3 3]))
    (fun t => decide (t.readCm 0 6 = [31, 31, 28, 4, 5, 6] ∧ t.xm.get 2 = .any 1 ∧ t.xm.get 13 = .any 1 ∧ t.xm.get 14 = .any 0)) =
    true := by decide

/-- P3: the source's end-to-end example, corrected by C2. -/
theorem test_pmul : stepsTo (arena 0 36 (machine 64 32 4 [] [1, 0, 1, 0, 0, 0, 0, 0, 0, 1, 1] [.pmul 16 0 3 8 3]))
    (fun t => decide (t.readCm 16 5 = [0, 1, 1, 1, 1] ∧ t.cm.get 21 = .any 0 ∧ t.cp = 1)) = true := by decide

/-- V6: `PMUL` wraps modulo 2^64. -/
theorem test_pmul_wraps : pmul [0x8000000000000000, 0x8000000000000000] [0x8000000000000000, 3] =
    [0, 0x8000000000000000, 0x8000000000000000] := by decide

/-! ### Faults beside the nearest accepted input (V8) -/

theorem test_fault_fetch : stepsTo { machine 64 16 4 [] [] [] with cp := 4 }
    (fun t => decide (t = { machine 64 16 4 [] [] [] with cp := 4, status := .fault, fcode := 1, fcp := 4 })) = true := by decide

theorem test_fault_param : (([.eadd 100 0 0 0, .twid 0 4 2 0, .twid 0 4 3 10, .fft3 0 9 1, .fft3 0 6 3, .mulmod 0 4 8 2,
    .pmul 0 4 0 8 1] : List Instr).all fun i => faultsWith (arena 0 64 (machine 64 16 4 [] [] [i])) .param) = true := by decide

theorem test_fault_range : (([.eadd 63 0 2 2, .eemb 0 15 2, .fft3 56 3 3, .eadd 62 61 0 4] : List Instr).all fun i =>
    faultsWith (arena 0 9 (machine 64 16 4 [] [] [i])) .range) = true := by decide

theorem test_fault_arena : faultsWith (arena 32 8 (machine 64 16 4 [] [] [.fft3 0 3 3])) .arena = true ∧
    faultsWith (arena 56 9 (machine 64 16 4 [] [] [.fft3 0 3 3])) .arena = true ∧
    faultsWith (arena 0 11 (machine 64 16 4 [] [] [.cconv 0 0 0 3])) .arena = true ∧
    faultsWith (arena 0 8 (machine 64 16 4 [] [] [.fft3 0 3 3])) .arena = true := by decide

theorem test_fault_overlap : (([.eadd 1 0 8 2, .twid 0 0 3 1, .twid 2 0 3 1, .mulmod 0 0 8 3, .fft3 0 3 3] : List Instr).all
    fun i => faultsWith (arena 8 9 (machine 64 16 4 [] [] [i])) .overlap) = true := by decide

theorem test_no_fault : (([.eadd 0 1 2 1, .twid 0 4 3 9, .mulmod 0 4 8 3, .eadd 62 0 2 2, .eemb 0 14 2, .eadd 0 0 0 2,
    .eadd 2 0 0 2, .twid 3 0 3 1, .mulmod 0 8 8 3, .fft3 0 1 3, .pmul 0 4 1 8 1] : List Instr).all
    fun i => stepsTo (arena 32 12 (machine 64 16 4 [] [] [i])) (fun t => decide (t.status = .run ∧ t.cp = 1))) = true := by
  decide

/-! ### Host and platform (V7) -/

theorem test_host_start_clear :
    (hostWrite .csr 0 1 (State.resetOf ⟨8, 8, 8, 0, 0, 0, 0⟩)).status = .run ∧
      (hostWrite .csr 0 1 (raiseFault .arena 5 (machine 8 8 8 [] [] []))).status = .fault ∧
      hostWrite .csr 0 2 (raiseFault .arena 5 (machine 8 8 8 [] [] [])) = { machine 8 8 8 [] [] [] with status := .idle } ∧
      hostWrite .csr 0 3 (raiseFault .arena 5 (machine 8 8 8 [] [] [])) = machine 8 8 8 [] [] [] ∧
      hostWrite .csr 0 3 (machine 8 8 8 [] [] []) = machine 8 8 8 [] [] [] := by decide

theorem test_host_csr : (hostWrite .csr 2 0x100000005 State.reset).cp = 5 ∧
    (hostWrite .csr 4 0xFFFFFFFFFFFFFFFF State.reset).arenaSize = 0x1FFFFFFFF ∧
    csrRead 8 (hostWrite .csr 8 0xFF State.reset) = 3 ∧ csrRead 9 (hostWrite .csr 9 7 State.reset) = 0 ∧
    hostWrite .csr 2 5 (machine 8 8 8 [] [] []) = machine 8 8 8 [] [] [] := by decide

/-- R23: the four values of `STATE`, as the host reads `STATUS`. -/
theorem test_host_status : csrRead 1 State.reset = 0 ∧ csrRead 1 (machine 8 8 8 [] [] []) = 1 ∧
    csrRead 1 { machine 8 8 8 [] [] [] with status := .halted } = 2 ∧
    csrRead 1 (raiseFault .range 5 (machine 8 8 8 [] [] [])) = 3 := by decide

/-- R17: the words of a descriptor and of an element; a write while `RUN` is dropped. -/
theorem test_host_memory :
    (hostWrite .km 5 9 (hostWrite .km 4 8 (hostWrite .km 3 7 State.reset))).kmAt 1 = ⟨7, 8, 9⟩ ∧
      (hostWrite .xm 5 9 (hostWrite .xm 4 8 State.reset)).xmAt 2 = ⟨8, 9⟩ ∧
      (hostRead .xm 5 (hostWrite .xm 5 9 State.reset)).1 = 9 ∧
      hostWrite .cm 0 1 (machine 8 8 8 [] [] []) = machine 8 8 8 [] [] [] := by decide

/-- R40: little-endian bytes; R141: the one point the source fixes. -/
theorem test_host_view : wordByte 0x0102030405060708 0 = 0x08 ∧ wordByte 0x0102030405060708 7 = 0x01 ∧
    toSigned 0xFFFFFFFFFFFFFFFF = -1 ∧ ofSigned (-1) = 0xFFFFFFFFFFFFFFFF := by decide

/-- R171, P4: after the repair the command is retried from its beginning. -/
theorem test_retry : (hostWrite .csr 0 3 (hostWrite .csr 4 36 (raiseFault .arena 0x0000000300000051
    (arena 0 35 (machine 64 32 4 [] [] [.pmul 16 0 3 8 3]))))) = arena 0 36 (machine 64 32 4 [] [] [.pmul 16 0 3 8 3]) := by decide

end Sys2Proof.Tests
end

