-- ==== Sys2Proof/Tests/Witnesses.lean ====
section
/-! SUPPORT. For each obligation with hypotheses, a concrete state and operands that meet them together, and for each clause of a
statement with several clauses a value at the boundary of its range. -/

namespace Sys2Proof.Tests

open Sys2Proof.Machine

/-! ### Helpers -/

/-- The command answers a next state with the property. -/
def execsTo (i : Instr) (s : State) (p : State → Bool) : Bool :=
  match exec i s with
  | .next t => p t
  | _ => false

theorem exists_of_execsTo {i : Instr} {s : State} {p : State → Bool} (h : execsTo i s p = true) :
    ∃ t, exec i s = .next t ∧ p t = true := by
  unfold execsTo at h
  split at h
  · exact ⟨_, by assumption, h⟩
  · cases h

theorem exists_of_stepsTo {s : State} {p : State → Bool} (h : stepsTo s p = true) : ∃ t, step s = .next t ∧ p t = true := by
  unfold stepsTo at h
  split at h
  · exact ⟨_, by assumption, h⟩
  · cases h

/-- The XM, CM and KM sizes of the witnesses are 64, 32 and 4; the arena is the last 36 elements. -/
def small (k : List Instr) : State :=
  arena 28 36 (machine 64 32 4 ((List.range 27).map fun i => el i) [1, 2, 3, 4, 5, 6] k)

/-- A machine whose XM holds a product of length 81 and its arena, 351 elements from 243. -/
def large : State := arena 243 351 (machine 594 8 8 [] [] [])

/-- Two is no power of three, nor is zero. -/
theorem two_not_pow3 : ¬ ∃ k, 2 = 3 ^ k := by rw [← isPow3_iff]; decide

theorem zero_not_pow3 : ¬ ∃ k, 0 = 3 ^ k := by rw [← isPow3_iff]; decide

/-! ### Functions -/

theorem witness_OmegaPowersMultiplyByOmega : 3 % 3 = 0 ∧ 1 % 3 = 1 ∧ 2 % 3 = 2 := by decide

theorem witness_TwiddleIdentityAtBothEnds : 1 ≤ ([el 7] : Block).length ∧ 1 ≤ ([el 1, el 2, el 3] : Block).length := by
  decide

theorem witness_TwiddleIsMultiplicationByAPowerOfX : 1 ≤ ([el 1, el 2, el 3] : Block).length ∧
    9 ≤ 3 * ([el 1, el 2, el 3] : Block).length ∧ 2 < ([el 1, el 2, el 3] : Block).length := by decide

theorem witness_TwiddlesComposeAndAreLinear : 3 ≤ 3 ∧ 1 ≤ ([el 1, el 2, el 3] : Block).length ∧
    4 ≤ 3 * ([el 1, el 2, el 3] : Block).length ∧ 9 ≤ 3 * ([el 1, el 2, el 3] : Block).length ∧
    ([el 4, el 5, el 6] : Block).length = ([el 1, el 2, el 3] : Block).length := by decide

theorem witness_DigitReversalIsAnInvolution : 8 < 3 ^ 2 ∧ 0 < 3 ^ 0 := by decide

/-- Nine blocks of three elements: `r = 3·m`, the largest `r`. It meets the hypotheses of the three transform statements. -/
def nineBlocks : List Block := List.replicate 9 [el 1, pr 0 1, el 2]

theorem witness_ForwardTransformIsDigitReversedDft : 3 ^ 2 ≤ 3 * 3 ^ 1 ∧ nineBlocks.length = 3 ^ 2 ∧
    (∀ p ∈ nineBlocks, p.length = 3 ^ 1) ∧ 8 < 3 ^ 2 ∧ 2 < 3 ^ 1 := by decide

theorem witness_InverseTransformIsConjugateKernelSum : 3 ^ 2 ≤ 3 * 3 ^ 1 ∧ nineBlocks.length = 3 ^ 2 ∧
    (∀ p ∈ nineBlocks, p.length = 3 ^ 1) ∧ 8 < 3 ^ 2 ∧ 2 < 3 ^ 1 := by decide

theorem witness_TransformRoundTripRestoresTheBlocks : 3 ^ 2 ≤ 3 * 3 ^ 1 ∧ nineBlocks.length = 3 ^ 2 ∧
    (∀ p ∈ nineBlocks, p.length = 3 ^ 1) := by decide

theorem witness_SchoolbookLoopHasItsClosedForm : ([pr 0 1, el 2] : Block).length = ([el 1, el 1] : Block).length := by decide

/-- `81 = 3^4` is the smallest length that takes the recursive case. -/
theorem witness_RecursiveMultiplierEqualsSchoolbook : (List.replicate 81 (pr 1 1)).length = 3 ^ 4 ∧ ¬ 81 ≤ baseMax := by
  decide

theorem witness_DriverComputesTheCyclicConvolution : ([1, 2, 3] : List Word).length = 3 ^ 1 ∧
    ([4, 5, 6] : List Word).length = 3 ^ 1 := by decide

theorem witness_PublicMultiplyGivesTheTrueProduct : 1 ≤ ([1, 0] : List Word).length ∧ 1 ≤ ([5] : List Word).length ∧
    ([1, 0] : List Word).length + ([5] : List Word).length - 1 ≤ 2 := by decide

theorem witness_SplitsAndPaddedSizeAreAsTheRulesSay : 3 ^ 5 ≤ 3 ^ 3 * 3 ^ 3 ∧ 3 ^ 2 * 3 ^ 2 ≤ 3 ^ 5 ∧ 1 ≤ 1 ∧ 1 ≤ 10 ∧
    10 ≤ 3 ^ 3 := by decide

theorem witness_ArenaNeedsAreAsTheRulesSay : 27 ≤ 27 ∧ 27 < 3 ^ 4 := by decide

/-! ### Encoding and the step -/

theorem witness_DecodeAfterEncodeGivesTheCommandBack :
    (Instr.esc3 (2 ^ 32 - 1) (2 ^ 32 - 1) (2 ^ 32 - 1) 255).wf = true := by decide

theorem witness_EveryLegalDescriptorHasOneSpelling : decode ⟨0x0000001B00000316, 0x0000001B0000001B, 0⟩ = .ok (.esc3 27 27 27 3) := by
  decide

theorem witness_StepRunsTheDecodedCommand : (small [.eadd 0 1 2 1]).status = .run ∧
    (small [.eadd 0 1 2 1]).cp.toNat < (small [.eadd 0 1 2 1]).cfg.kmSize ∧
    decode ((small [.eadd 0 1 2 1]).kmAt (small [.eadd 0 1 2 1]).cp.toNat) = .ok (.eadd 0 1 2 1) := by decide

theorem witness_StoppedEngineDoesNothing : State.reset.status ≠ .run := by decide

/-- `CP = KM_SIZE`. -/
theorem witness_FetchPastTheEndFaults : ({ small [] with cp := 4 }).status = .run ∧
    ({ small [] with cp := 4 }).cfg.kmSize ≤ ({ small [] with cp := 4 }).cp.toNat := by decide

/-- A machine whose last descriptor is `d`, about to fetch it. -/
def lastDescriptor (d : Descriptor) : State := { small [] with cp := 3, km := Memory.writeFrom [] 3 [d] }

theorem witness_IllegalDescriptorsFault_opcode : (lastDescriptor ⟨2, 0, 0⟩).status = .run ∧
    (lastDescriptor ⟨2, 0, 0⟩).cp.toNat < (lastDescriptor ⟨2, 0, 0⟩).cfg.kmSize ∧
    (∀ row ∈ opcodeRows,
      descriptorBits ((lastDescriptor ⟨2, 0, 0⟩).kmAt (lastDescriptor ⟨2, 0, 0⟩).cp.toNat) &&& 0xFF ≠ row.1) := by
  refine ⟨by decide, by decide, ?_⟩
  have h : descriptorBits ((lastDescriptor ⟨2, 0, 0⟩).kmAt (lastDescriptor ⟨2, 0, 0⟩).cp.toNat) &&& 0xFF = 2 := by decide
  rw [h]
  simp [opcodeRows]

theorem witness_IllegalDescriptorsFault_reserved : (lastDescriptor ⟨0x10000, 0, 0⟩).status = .run ∧
    (lastDescriptor ⟨0x10000, 0, 0⟩).cp.toNat < (lastDescriptor ⟨0x10000, 0, 0⟩).cfg.kmSize ∧
    (∃ row ∈ opcodeRows,
      descriptorBits ((lastDescriptor ⟨0x10000, 0, 0⟩).kmAt (lastDescriptor ⟨0x10000, 0, 0⟩).cp.toNat) &&& 0xFF = row.1 ∧
      descriptorBits ((lastDescriptor ⟨0x10000, 0, 0⟩).kmAt (lastDescriptor ⟨0x10000, 0, 0⟩).cp.toNat) &&& row.2 ≠ 0) :=
  ⟨by decide, by decide, _, List.mem_cons_self, by decide, by decide⟩

theorem witness_EveryRunningStepCompletesOrFaults : (small [.halt]).status = .run ∧ (small [.halt]).cfg.wf = true := by decide

theorem witness_NopOnlyAdvances : (⟨0x10000, 0, 0⟩ : Descriptor).w0.setWidth 8 = 0x00#8 ∧
    (⟨0x10000, 0, 0⟩ : Descriptor) ≠ ⟨0, 0, 0⟩ := by decide

theorem witness_HaltStopsTheEngine : (⟨1, 5, 0⟩ : Descriptor).w0.setWidth 8 = 0x01#8 ∧ (⟨1, 5, 0⟩ : Descriptor) ≠ ⟨1, 0, 0⟩ := by
  decide

/-! ### Completion: operands that meet the hypotheses, at the end of a memory and, where a source may be the destination, so -/

theorem witness_EaddAddsElementwise : 1 ≤ 2 ∧ 62 + 2 ≤ (small []).cfg.xmSize ∧ 0 + 2 ≤ (small []).cfg.xmSize ∧
    62 + 2 ≤ (small []).cfg.xmSize ∧ SameOrApart 62 0 2 ∧ SameOrApart 62 62 2 := by decide

theorem witness_EsubSubtractsElementwise : 1 ≤ 2 ∧ 62 + 2 ≤ (small []).cfg.xmSize ∧ 0 + 2 ≤ (small []).cfg.xmSize ∧
    62 + 2 ≤ (small []).cfg.xmSize ∧ SameOrApart 62 0 2 ∧ SameOrApart 62 62 2 := by decide

theorem witness_EmulMultipliesElementwise : 1 ≤ 2 ∧ 62 + 2 ≤ (small []).cfg.xmSize ∧ 0 + 2 ≤ (small []).cfg.xmSize ∧
    62 + 2 ≤ (small []).cfg.xmSize ∧ SameOrApart 62 0 2 ∧ SameOrApart 62 62 2 := by decide

theorem witness_EnegNegatesElementwise : 1 ≤ 2 ∧ 62 + 2 ≤ (small []).cfg.xmSize ∧ 60 + 2 ≤ (small []).cfg.xmSize ∧
    SameOrApart 62 60 2 := by decide

theorem witness_EconjConjugatesElementwise : 1 ≤ 2 ∧ 62 + 2 ≤ (small []).cfg.xmSize ∧ 60 + 2 ≤ (small []).cfg.xmSize ∧
    SameOrApart 62 60 2 := by decide

theorem witness_EembEmbedsWords : 1 ≤ 2 ∧ 62 + 2 ≤ (small []).cfg.xmSize ∧ 30 + 2 ≤ (small []).cfg.cmSize := by decide

theorem witness_Esc3ScalesElementwise : 1 ≤ 2 ∧ 62 + 2 ≤ (small []).cfg.xmSize ∧ 62 + 2 ≤ (small []).cfg.xmSize ∧
    SameOrApart 62 62 2 := by decide

theorem witness_TwidRotatesTheBuffer : 9 ≤ 3 * 3 ^ 1 ∧ 61 + 3 ^ 1 ≤ (small []).cfg.xmSize ∧ 58 + 3 ^ 1 ≤ (small []).cfg.xmSize ∧
    Apart 61 (3 ^ 1) 58 (3 ^ 1) := by decide

theorem witness_Fft3TransformsInPlace : 3 ^ 2 ≤ 3 * 3 ^ 1 ∧ 1 + 3 ^ 2 * 3 ^ 1 ≤ (small []).cfg.xmSize ∧
    ArenaGranted (small []) (needFft (3 ^ 2) (3 ^ 1)) ∧ ArenaClear (small []) (needFft (3 ^ 2) (3 ^ 1)) 1 (3 ^ 2 * 3 ^ 1) ∧
    1 ≤ (small []).draws := by decide

theorem witness_Ifft3TransformsInPlace : 3 ^ 2 ≤ 3 * 3 ^ 1 ∧ 1 + 3 ^ 2 * 3 ^ 1 ≤ (small []).cfg.xmSize ∧
    ArenaGranted (small []) (needFft (3 ^ 2) (3 ^ 1)) ∧ ArenaClear (small []) (needFft (3 ^ 2) (3 ^ 1)) 1 (3 ^ 2 * 3 ^ 1) ∧
    1 ≤ (small []).draws := by decide

theorem witness_MulmodWritesTheProduct : 162 + 3 ^ 4 ≤ large.cfg.xmSize ∧ 0 + 3 ^ 4 ≤ large.cfg.xmSize ∧
    81 + 3 ^ 4 ≤ large.cfg.xmSize ∧ ArenaGranted large (needMul (3 ^ 4)) ∧ Apart 162 (3 ^ 4) 0 (3 ^ 4) ∧
    Apart 162 (3 ^ 4) 81 (3 ^ 4) ∧ ArenaClear large (needMul (3 ^ 4)) 162 (3 ^ 4) ∧ ArenaClear large (needMul (3 ^ 4)) 0 (3 ^ 4) ∧
    ArenaClear large (needMul (3 ^ 4)) 81 (3 ^ 4) ∧ 1 ≤ large.draws := by decide

/-- The destination overlaps a source, and `NEED_CC(9)` is the whole arena. -/
theorem witness_CconvWritesTheConvolution : 23 + 3 ^ 2 ≤ (small []).cfg.cmSize ∧ 20 + 3 ^ 2 ≤ (small []).cfg.cmSize ∧
    0 + 3 ^ 2 ≤ (small []).cfg.cmSize ∧ ArenaGranted (small []) (needCc (3 ^ 2)) ∧ 1 ≤ (small []).draws := by decide

theorem witness_PmulWritesTheProduct : 1 ≤ 3 ∧ 1 ≤ 2 ∧ 28 + (3 + 2 - 1) ≤ (small []).cfg.cmSize ∧ 0 + 3 ≤ (small []).cfg.cmSize ∧
    30 + 2 ≤ (small []).cfg.cmSize ∧ ArenaGranted (small []) (needCc (pow3Ceil (3 + 2 - 1))) ∧ 1 ≤ (small []).draws := by decide

/-! ### Faults: each clause at a boundary -/

theorem witness_ElementwiseFaultsInCodeOrder :
    (2 ≠ 0 ∧ (small []).cfg.xmSize < 63 + 2 ∧ ¬ (small []).cfg.xmSize < 62 + 2) ∧
    (2 ≠ 0 ∧ 1 + 2 ≤ (small []).cfg.xmSize ∧ 0 + 2 ≤ (small []).cfg.xmSize ∧ 62 + 2 ≤ (small []).cfg.xmSize ∧
      ¬ (SameOrApart 1 0 2 ∧ SameOrApart 1 62 2)) ∧
    (2 ≠ 0 ∧ 62 + 2 ≤ (small []).cfg.xmSize ∧ 61 + 2 ≤ (small []).cfg.xmSize ∧ ¬ SameOrApart 62 61 2) := by decide

theorem witness_EembAndTwidFaultInCodeOrder :
    (2 ≠ 0 ∧ (small []).cfg.xmSize < 63 + 2) ∧ (2 ≠ 0 ∧ (small []).cfg.cmSize < 31 + 2) ∧
    (¬ ∃ k, 2 = 3 ^ k) ∧ 3 * 3 < 10 ∧
    ((∃ k, 3 = 3 ^ k) ∧ 9 ≤ 3 * 3 ∧ (small []).cfg.xmSize < 62 + 3) ∧
    ((∃ k, 3 = 3 ^ k) ∧ 9 ≤ 3 * 3 ∧ 61 + 3 ≤ (small []).cfg.xmSize ∧ 59 + 3 ≤ (small []).cfg.xmSize ∧ ¬ Apart 61 3 59 3) :=
  ⟨by decide, by decide, two_not_pow3, by decide, ⟨⟨1, rfl⟩, by decide⟩, ⟨⟨1, rfl⟩, by decide⟩⟩

/-- With `r = 9`, `m = 3` the need is 9: an arena of 8 is too small, one from 56 leaves XM, one from 26 meets the buffer. -/
theorem witness_TransformsFaultInCodeOrder :
    (¬ ∃ k, 0 = 3 ^ k) ∧ 3 * 1 < 9 ∧
    ((∃ k, 9 = 3 ^ k) ∧ (∃ k, 3 = 3 ^ k) ∧ 9 ≤ 3 * 3 ∧ (small []).cfg.xmSize < 38 + 9 * 3) ∧
    ((∃ k, 9 = 3 ^ k) ∧ (∃ k, 3 = 3 ^ k) ∧ 9 ≤ 3 * 3 ∧ 37 + 9 * 3 ≤ (small []).cfg.xmSize ∧
      ¬ ArenaGranted (arena 0 8 (small [])) (needFft 9 3)) ∧ ¬ ArenaGranted (arena 56 9 (small [])) (needFft 9 3) ∧
    ((∃ k, 9 = 3 ^ k) ∧ (∃ k, 3 = 3 ^ k) ∧ 9 ≤ 3 * 3 ∧ 0 + 9 * 3 ≤ (small []).cfg.xmSize ∧
      ArenaGranted (arena 26 9 (small [])) (needFft 9 3) ∧ ¬ ArenaClear (arena 26 9 (small [])) (needFft 9 3) 0 (9 * 3)) :=
  ⟨zero_not_pow3, by decide, ⟨⟨2, rfl⟩, ⟨1, rfl⟩, by decide⟩, ⟨⟨2, rfl⟩, ⟨1, rfl⟩, by decide⟩, by decide,
    ⟨⟨2, rfl⟩, ⟨1, rfl⟩, by decide⟩⟩

theorem witness_MulmodFaultsInCodeOrder :
    (¬ ∃ k, 2 = 3 ^ k) ∧
    ((∃ k, 81 = 3 ^ k) ∧ large.cfg.xmSize < 514 + 81) ∧
    ((∃ k, 81 = 3 ^ k) ∧ 513 + 81 ≤ large.cfg.xmSize ∧ 0 + 81 ≤ large.cfg.xmSize ∧ ¬ ArenaGranted (arena 243 350 large) (needMul 81)) ∧
    ((∃ k, 81 = 3 ^ k) ∧ 162 + 81 ≤ large.cfg.xmSize ∧ 0 + 81 ≤ large.cfg.xmSize ∧ ArenaGranted large (needMul 81) ∧
      ¬ (Apart 163 81 0 81 ∧ Apart 163 81 0 81 ∧ ArenaClear large (needMul 81) 163 81 ∧ ArenaClear large (needMul 81) 0 81 ∧
        ArenaClear large (needMul 81) 0 81)) ∧
    ((∃ k, 3 = 3 ^ k) ∧ ArenaGranted (arena 0 0 large) (needMul 3) ∧
      ¬ (Apart 2 3 0 3 ∧ Apart 2 3 9 3 ∧ ArenaClear large (needMul 3) 2 3 ∧ ArenaClear large (needMul 3) 0 3 ∧
        ArenaClear large (needMul 3) 9 3)) :=
  ⟨two_not_pow3, ⟨⟨4, rfl⟩, by decide⟩, ⟨⟨4, rfl⟩, by decide⟩, ⟨⟨4, rfl⟩, by decide⟩, ⟨⟨1, rfl⟩, by decide⟩⟩

theorem witness_ConvolutionsFaultInCodeOrder :
    (¬ ∃ k, 0 = 3 ^ k) ∧
    ((∃ k, 9 = 3 ^ k) ∧ (small []).cfg.cmSize < 24 + 9) ∧
    ((∃ k, 9 = 3 ^ k) ∧ 23 + 9 ≤ (small []).cfg.cmSize ∧ ¬ ArenaGranted (arena 28 35 (small [])) (needCc 9)) ∧
    (3 ≠ 0 ∧ 2 ≠ 0 ∧ (small []).cfg.cmSize < 29 + (3 + 2 - 1) ∧ ¬ (small []).cfg.cmSize < 28 + (3 + 2 - 1)) ∧
    (3 ≠ 0 ∧ 2 ≠ 0 ∧ 28 + (3 + 2 - 1) ≤ (small []).cfg.cmSize ∧ 0 + 3 ≤ (small []).cfg.cmSize ∧ 30 + 2 ≤ (small []).cfg.cmSize ∧
      ¬ ArenaGranted (arena 29 36 (small [])) (needCc (pow3Ceil (3 + 2 - 1)))) :=
  ⟨zero_not_pow3, ⟨⟨2, rfl⟩, by decide⟩, ⟨⟨2, rfl⟩, by decide⟩, by decide, by decide⟩

/-! ### Whole-machine rules and the host port -/

theorem witness_NoCommandWritesWhatItMayNot :
    (∃ t, exec (.fft3 0 3 3) (small []) = .next t ∧ decide (t.status = .run) = true) ∧
      (Instr.fft3 0 3 3).op ≠ .cconv ∧ (Instr.fft3 0 3 3).op ≠ .pmul ∧ (Instr.op .nop = .nop ∨ Instr.op .nop = .halt) :=
  ⟨exists_of_execsTo (by decide), by decide, by decide, by decide⟩

theorem witness_StateMovesOnlyAlongItsTransitions :
    (∃ t, step (small [.halt]) = .next t ∧ decide (t.status = .halted) = true) ∧ (small [.halt]).status = .run ∧
      HostAct.write .csr 0 3 ≠ .reset :=
  ⟨exists_of_stepsTo (by decide), by decide, by decide⟩

theorem witness_CommandsWithoutNeedIgnoreTheArena : needFft 1 3 = 0 ∧ needMul 27 = 0 ∧
    ∃ t, exec (.mulmod 54 0 0 27) { machine 81 8 8 [] [] [] with cp := 3 } = .next t ∧ decide (t.cp = 4) = true :=
  ⟨by decide, by decide, _, rfl, by decide⟩

theorem witness_EveryStepKeepsTheInvariant : (small [.fft3 0 3 3]).inv = true ∧
    ∃ t, step (small [.fft3 0 3 3]) = .next t ∧ decide (t.status = .run) = true :=
  ⟨by decide, exists_of_stepsTo (by decide)⟩

theorem witness_EveryOutsideActKeepsTheInvariant : (small [.halt]).inv = true ∧
    ∃ t, runEvents [.engine, .host (.write .csr 0 2)] (small [.halt]) = .next t ∧ t.status = .idle :=
  ⟨by decide, _, rfl, by decide⟩

theorem witness_DrawsOfAnyAreNeverReused : (∃ t, step (small [.fft3 0 3 3]) = .next t ∧ decide (t.xm.get 28 = .any 1) = true) ∧
    1 ≤ (small [.fft3 0 3 3]).draws ∧ (small [.fft3 0 3 3]).cm.get 31 = .any 0 ∧ HostAct.read .xm 0 ≠ .reset :=
  ⟨exists_of_stepsTo (by decide), by decide⟩

theorem witness_ResetHasTheInvariant : (⟨1, 1, 1, 0, 0, 0, 0⟩ : Config).wf = true ∧
    (⟨2 ^ 32, 2 ^ 32, 2 ^ 32 - 1, 0, 0, 0, 0⟩ : Config).wf = true := by decide

theorem witness_EveryRunEnds : (small [.nop, .nop]).cfg.wf = true ∧ (small [.nop, .nop]).status = .run := by decide

/-- Each setting of the strobes with each state that a clause names. -/
theorem witness_StartAndClearActAsTheRulesSay :
    ((4 : Word).getLsbD 0 = false ∧ (4 : Word).getLsbD 1 = false) ∧ ((1 : Word).getLsbD 0 = true ∧ (1 : Word).getLsbD 1 = false) ∧
      ((2 : Word).getLsbD 0 = false ∧ (2 : Word).getLsbD 1 = true) ∧ ((3 : Word).getLsbD 0 = true ∧ (3 : Word).getLsbD 1 = true) ∧
      State.reset.status = .idle ∧ (small []).status = .run ∧ ({ small [] with status := .halted }).status = .halted ∧
      (raiseFault .range 5 (small [])).status = .fault := by decide

theorem witness_CsrBlockReadsAndWrites : State.reset.status = .idle ∧ ({ small [] with status := .halted }).status = .halted ∧
    (raiseFault .range 5 (small [])).status = .fault ∧ 9 ≤ 9 ∧ State.reset.status ≠ .run ∧ (small []).status = .run ∧ (2 = 2 ∨ 2 = 3 ∨ 2 = 4) ∧
    ((1 = 1 ∨ 5 ≤ 1) ∧ 1 ≠ 8) ∧ ((9 = 1 ∨ 5 ≤ 9) ∧ 9 ≠ 8) := by decide

/-- The last word of each region, and the first offset past its end, where only the clause on the changed memory speaks. -/
theorem witness_HostMemoryPortObeysOwnership : Region.km ≠ .csr ∧ Region.cm ≠ .csr ∧ Region.xm ≠ .csr ∧ State.reset.status ≠ .run ∧
    (196604 < regionSize State.reset.cfg .km ∧ ¬ 196605 < regionSize State.reset.cfg .km) ∧
    (65535 < regionSize State.reset.cfg .cm ∧ ¬ 65536 < regionSize State.reset.cfg .cm) ∧
    (131071 < regionSize State.reset.cfg .xm ∧ ¬ 131072 < regionSize State.reset.cfg .xm) ∧
    ((Region.km, 196603) ≠ (Region.km, 196604)) ∧ (small []).status = .run := by decide

theorem witness_IrqIsAFunctionOfStatusAndEnables : ({ small [] with status := .halted, irqEn := 1 }).irq = true ∧
    ({ small [] with status := .halted }).status = .halted := by decide

end Sys2Proof.Tests
end

/-! ## O51: every step keeps the machine's invariant

The invariant splits by piece of the state (`State.Sound`): the sizes, the three memories, the draw counter and the fault registers.
The operations a command is made of (a block write, the arena clobber, the advance of `CP`, fault entry) each keep it, where the block
or the arena lies inside its memory; the checks of the command say that it does, and the length laws say how long the block is. -/

namespace Sys2Proof.Machine

/-! ### The invariant, piece by piece -/

/-- What the invariant asks of one memory of `size` units when the next draw of ANY is numbered `draws`. -/
structure Memory.Sound {α : Type} (m : Memory α) (size draws : Nat) : Prop where
  wf : m.wf = true
  within : m.within size = true
  drawn : m.drawnBefore draws = true

/-- `State.inv` as a record of its pieces. -/
structure State.Sound (s : State) : Prop where
  cfg : s.cfg.wf = true
  xm : s.xm.Sound s.cfg.xmSize s.draws
  cm : s.cm.Sound s.cfg.cmSize s.draws
  km : s.km.Sound s.cfg.kmSize s.draws
  draws : 1 ≤ s.draws
  faultRegs : s.faultRegsSound = true

theorem State.inv_iff_sound {s : State} : s.inv = true ↔ s.Sound := by
  simp only [State.inv, Bool.and_eq_true, decide_eq_true_eq, and_assoc]
  constructor
  · rintro ⟨hcfg, hxw, hcw, hkw, hxs, hcs, hks, hd, hxd, hcd, hkd, hf⟩
    exact ⟨hcfg, ⟨hxw, hxs, hxd⟩, ⟨hcw, hcs, hcd⟩, ⟨hkw, hks, hkd⟩, hd, hf⟩
  · rintro ⟨hcfg, ⟨hxw, hxs, hxd⟩, ⟨hcw, hcs, hcd⟩, ⟨hkw, hks, hkd⟩, hd, hf⟩
    exact ⟨hcfg, hxw, hcw, hkw, hxs, hcs, hks, hd, hxd, hcd, hkd, hf⟩

/-! ### One memory -/

section

variable {α : Type} {m : Memory α} {size draws : Nat}

theorem Memory.Sound.writeFrom (hm : m.Sound size draws) {base : Nat} {vs : List α} (h : base + vs.length ≤ size) :
    (m.writeFrom base vs).Sound size draws :=
  ⟨Memory.wf_writeFrom vs hm.wf base, Memory.within_writeFrom hm.within h, Memory.drawnBefore_writeFrom hm.drawn⟩

/-- A clobber makes the draw it is numbered by, so the next draw has the next number. -/
theorem Memory.Sound.clobber (hm : m.Sound size draws) {base n : Nat} (h : base + n ≤ size) :
    (m.clobber base draws n).Sound size (draws + 1) :=
  ⟨Memory.wf_clobber hm.wf base draws n, Memory.within_clobber hm.within h, Memory.drawnBefore_clobber hm.drawn⟩

theorem Memory.Sound.mono (hm : m.Sound size draws) {draws' : Nat} (h : draws ≤ draws') : m.Sound size draws' :=
  ⟨hm.wf, hm.within, Memory.drawnBefore_mono hm.drawn h⟩

end

/-! ### The operations a command is made of -/

section

variable {s : State}

theorem State.Sound.advance (hs : s.Sound) : s.advance.Sound :=
  ⟨hs.cfg, hs.xm, hs.cm, hs.km, hs.draws, hs.faultRegs⟩

theorem State.Sound.writeXm (hs : s.Sound) {base : Nat} {vs : List Elt} (h : base + vs.length ≤ s.cfg.xmSize) :
    (s.writeXm base vs).Sound :=
  ⟨hs.cfg, hs.xm.writeFrom h, hs.cm, hs.km, hs.draws, hs.faultRegs⟩

theorem State.Sound.writeCm (hs : s.Sound) {base : Nat} {vs : List Word} (h : base + vs.length ≤ s.cfg.cmSize) :
    (s.writeCm base vs).Sound :=
  ⟨hs.cfg, hs.xm, hs.cm.writeFrom h, hs.km, hs.draws, hs.faultRegs⟩

/-- A clobber of a granted arena lies inside XM (R46, R166). -/
theorem State.Sound.clobberArena (hs : s.Sound) {need : Nat} (h : ArenaGranted s need) : (s.clobberArena need).Sound := by
  rcases Nat.eq_zero_or_pos need with rfl | hpos
  · exact hs
  · have hin : s.arenaBase.toNat + need ≤ s.cfg.xmSize := (h hpos).2
    rw [s.clobberArena_pos hpos]
    exact ⟨hs.cfg, hs.xm.clobber hin, hs.cm.mono (Nat.le_succ _), hs.km.mono (Nat.le_succ _),
      Nat.le_succ_of_le hs.draws, hs.faultRegs⟩

/-- While `FAULT` the registers hold a code of R160, and `FINFO` is 0 if that is `F_FETCH` (R23, R29). -/
theorem State.faultRegsSound_of_fault (h : s.status = .fault) :
    s.faultRegsSound = true ↔ (1 ≤ s.fcode.toNat ∧ s.fcode.toNat ≤ 7) ∧ (s.fcode = 1 → s.finfo = 0) := by
  simp [State.faultRegsSound, h, imp_iff_not_or]

/-- In every state but `FAULT` the fault registers are 0 (R27 to R29, R155). -/
theorem State.faultRegsSound_of_ne_fault (h : s.status ≠ .fault) :
    s.faultRegsSound = true ↔ s.fcode = 0 ∧ s.fcp = 0 ∧ s.finfo = 0 := by
  cases hst : s.status with
  | fault => exact absurd hst h
  | idle | run | halted => simp [State.faultRegsSound, hst, and_assoc]

/-- A change of `STATE` that neither leaves nor enters `FAULT`, such as that of `HALT` (R152). -/
theorem State.Sound.setStatus (hs : s.Sound) {r : RunState} (hold : s.status ≠ .fault) (hnew : r ≠ .fault) :
    (s.setStatus r).Sound := by
  have hzero := (State.faultRegsSound_of_ne_fault hold).1 hs.faultRegs
  exact ⟨hs.cfg, hs.xm, hs.cm, hs.km, hs.draws, (State.faultRegsSound_of_ne_fault hnew).2 hzero⟩

/-- The codes of R160 are 1 to 7. -/
theorem FaultCode.code_range (c : FaultCode) : 1 ≤ c.code.toNat ∧ c.code.toNat ≤ 7 := by
  cases c <;> decide

theorem FaultCode.code_eq_one_iff {c : FaultCode} : c.code = 1 ↔ c = .fetch := by
  cases c <;> decide

/-- Fault entry writes a code of R160, and 0 to `FINFO` for `F_FETCH` (R170). -/
theorem raiseFault_faultRegsSound (c : FaultCode) (w0 : Word) (s : State) :
    (raiseFault c w0 s).faultRegsSound = true :=
  (State.faultRegsSound_of_fault rfl).2 ⟨c.code_range, fun hone => if_pos (FaultCode.code_eq_one_iff.1 hone)⟩

theorem State.Sound.raiseFault (hs : s.Sound) (c : FaultCode) (w0 : Word) : (raiseFault c w0 s).Sound :=
  ⟨hs.cfg, hs.xm, hs.cm, hs.km, hs.draws, raiseFault_faultRegsSound c w0 s⟩

/-- A command keeps the invariant where its effect does so whenever its check passes. -/
theorem State.Sound.after_command {w0 : Word} {check : Option FaultCode} {effect : State → State} {t : State} (hs : s.Sound)
    (h : runCommand w0 check effect s = .next t) (heffect : check = none → (effect s).Sound) : t.Sound := by
  obtain ⟨c, -, rfl⟩ | ⟨hpass, rfl⟩ := runCommand_cases h
  · exact hs.raiseFault c w0
  · exact (heffect hpass).advance

end

/-! ### The effects of the commands, where their checks pass -/

section

variable {s : State}

theorem State.Sound.mapXm2 (hs : s.Sound) (f : Elt → Elt → Elt) {dst src0 src1 n : Nat}
    (hc : ewCheck2 s dst src0 src1 n = none) : (mapXm2 f dst src0 src1 n s).Sound := by
  obtain ⟨-, ⟨hdst, -, -⟩, -⟩ := ewCheck2_eq_none.1 hc
  exact hs.writeXm (by simpa using hdst)

theorem State.Sound.mapXm1 (hs : s.Sound) (f : Elt → Elt) {dst src0 n : Nat} (hc : ewCheck1 s dst src0 n = none) :
    (mapXm1 f dst src0 n s).Sound := by
  obtain ⟨-, ⟨hdst, -⟩, -⟩ := ewCheck1_eq_none.1 hc
  exact hs.writeXm (by simpa using hdst)

theorem State.Sound.embed (hs : s.Sound) {dst src0 n : Nat} (hc : embedCheck s dst src0 n = none) :
    (s.writeXm dst ((s.readCm src0 n).map remb)).Sound := by
  obtain ⟨-, hdst, -⟩ := embedCheck_eq_none.1 hc
  exact hs.writeXm (by simpa using hdst)

theorem State.Sound.twiddle (hs : s.Sound) {dst src0 m t : Nat} (hc : twiddleCheck s dst src0 m t = none) :
    (s.writeXm dst (twiddle (s.readXm src0 m) t)).Sound := by
  obtain ⟨-, ⟨hdst, -⟩, -⟩ := twiddleCheck_eq_none.1 hc
  exact hs.writeXm (by simpa using hdst)

/-- What `fft3` and `ifft3` have in common: on a power of three of blocks they keep the blocks' number and length. -/
def KeepsShape (f : List Block → Nat → List Block) : Prop :=
  ∀ {m : Nat} {B : List Block}, isPow3 B.length = true → AllLen m B → (f B m).length = B.length ∧ AllLen m (f B m)

/-- The blocks that a transform writes back fill the buffer it read. -/
theorem KeepsShape.flatten_length {f : List Block → Nat → List Block} (hf : KeepsShape f) {p : Block} {r m : Nat}
    (hr : isPow3 r = true) (hp : p.length = r * m) : (f (blocksOf p r m) m).flatten.length = r * m := by
  obtain ⟨hcount, hlen⟩ := hf (by rwa [blocksOf_length]) (allLen_blocksOf hp)
  rw [hlen.flatten_length, hcount, blocksOf_length]

theorem State.Sound.transformXm (hs : s.Sound) {f : List Block → Nat → List Block} (hf : KeepsShape f) {dst r m : Nat}
    (hc : transformCheck s dst r m = none) : (transformXm f dst r m s).Sound := by
  obtain ⟨⟨hr, -, -⟩, hdst, hgranted, -⟩ := transformCheck_eq_none.1 hc
  have hlen := hf.flatten_length hr (s.readXm_length dst (r * m))
  have hwritten := hs.writeXm (base := dst) (by rwa [hlen])
  exact hwritten.clobberArena hgranted

theorem State.Sound.mulmod (hs : s.Sound) {dst src0 src1 n : Nat} (hc : mulmodCheck s dst src0 src1 n = none) :
    ((s.writeXm dst (mulmod (s.readXm src0 n) (s.readXm src1 n))).clobberArena (needMul n)).Sound := by
  obtain ⟨hn, ⟨hdst, -, -⟩, hgranted, -⟩ := mulmodCheck_eq_none.1 hc
  have hlen := mulmod_length (a := s.readXm src0 n) (s.readXm src1 n) (by rwa [s.readXm_length])
  have hwritten := hs.writeXm (base := dst) (by rwa [hlen, s.readXm_length])
  exact hwritten.clobberArena hgranted

theorem State.Sound.cconv (hs : s.Sound) {dst src0 src1 n : Nat} (hc : cconvCheck s dst src0 src1 n = none) :
    ((s.writeCm dst (cconv (s.readCm src0 n) (s.readCm src1 n))).clobberArena (needCc n)).Sound := by
  obtain ⟨hn, ⟨hdst, -, -⟩, hgranted⟩ := cconvCheck_eq_none.1 hc
  have hlen := cconv_length (a := s.readCm src0 n) (s.readCm src1 n) (by rwa [s.readCm_length])
  have hwritten := hs.writeCm (base := dst) (by rwa [hlen, s.readCm_length])
  exact hwritten.clobberArena hgranted

theorem State.Sound.pmul (hs : s.Sound) {dst src0 la src1 lb : Nat} (hc : pmulCheck s dst src0 la src1 lb = none) :
    ((s.writeCm dst (pmul (s.readCm src0 la) (s.readCm src1 lb))).clobberArena
      (needCc (pow3Ceil (la + lb - 1)))).Sound := by
  obtain ⟨⟨-, hlb⟩, ⟨hdst, -, -⟩, hgranted⟩ := pmulCheck_eq_none.1 hc
  have hlen := pmul_length (p := s.readCm src0 la) (q := s.readCm src1 lb) (by rwa [s.readCm_length])
  have hwritten := hs.writeCm (base := dst) (by rwa [hlen, s.readCm_length, s.readCm_length])
  exact hwritten.clobberArena hgranted

end

/-! ### The commands and the step -/

/-- Every command keeps the invariant. Only `HALT` needs more of `STATE` than the invariant says: from `FAULT` it would leave the
fault registers behind. -/
theorem State.Sound.after_exec {i : Instr} {s t : State} (hs : s.Sound) (hstatus : s.status ≠ .fault)
    (h : exec i s = .next t) : t.Sound := by
  cases i with
    simp only [exec, execNop, execHalt, execEadd, execEsub, execEneg, execEmul, execEconj, execEemb, execEsc3, execTwid,
      execFft3, execIfft3, execMulmod, execCconv, execPmul] at h
  | nop => exact hs.after_command h fun _ => hs
  | halt => exact hs.after_command h fun _ => hs.setStatus hstatus (by decide)
  | eadd | esub | emul => exact hs.after_command h (hs.mapXm2 _)
  | eneg | econj | esc3 => exact hs.after_command h (hs.mapXm1 _)
  | eemb => exact hs.after_command h hs.embed
  | twid => exact hs.after_command h hs.twiddle
  | fft3 => exact hs.after_command h (hs.transformXm fft3_shape)
  | ifft3 => exact hs.after_command h (hs.transformXm ifft3_shape)
  | mulmod => exact hs.after_command h hs.mulmod
  | cconv => exact hs.after_command h hs.cconv
  | pmul => exact hs.after_command h hs.pmul

/-- Everything a step can do (R150): nothing while stopped, a fault of the fetch or the decoder, or one command of a running engine. -/
theorem step_cases {s t : State} (h : step s = .next t) :
    (s.status ≠ .run ∧ t = s) ∨ (s.status = .run ∧ ∃ c w0, t = raiseFault c w0 s) ∨
      (s.status = .run ∧ ∃ i, decode (s.kmAt s.cp.toNat) = .ok i ∧ exec i s = .next t) := by
  unfold step at h
  obtain ⟨hstop, hf⟩ | ⟨hrun, -, hf⟩ | ⟨hrun, -, e, -, hf⟩ | ⟨hrun, -, i, hi, hf⟩ := fetchDecode_cases s <;>
    simp only [hf, Host.Outcome.next.injEq] at h
  · exact .inl ⟨hstop, h.symm⟩
  · exact .inr (.inl ⟨hrun, _, _, h.symm⟩)
  · exact .inr (.inl ⟨hrun, _, _, h.symm⟩)
  · exact .inr (.inr ⟨hrun, i, hi, h⟩)

theorem State.Sound.after_step {s t : State} (hs : s.Sound) (h : step s = .next t) : t.Sound := by
  obtain ⟨-, rfl⟩ | ⟨-, c, w0, rfl⟩ | ⟨hrun, i, -, hexec⟩ := step_cases h
  · exact hs
  · exact hs.raiseFault c w0
  · exact hs.after_exec (by simp [hrun]) hexec

/-- Settles O51: `State.Sound` is the invariant by pieces, and each of the three things a step can do keeps it. -/
theorem everyStepKeepsTheInvariant : Obligations.EveryStepKeepsTheInvariant := by
  intro s t hs h
  exact State.inv_iff_sound.2 ((State.inv_iff_sound.1 hs).after_step h)

end Sys2Proof.Machine

/-! ## O48 and O49: what a command may write, and how `STATE` moves

A command ends in one of five ways (`ExecResult`): it takes a fault, it is `NOP` or `HALT`, it writes XM, or it is a convolution, which
also writes CM. What no command writes, and where a command can leave `STATE`, is read off these. -/

namespace Sys2Proof.Machine

/-! ### The five ways a command can end -/

/-- The next state of a command, by the pieces of the state that the command writes beside `CP` (R48, R151 to R153, R170). -/
inductive ExecResult (s : State) : Instr → State → Prop where
  /-- A check failed. -/
  | trapped {i : Instr} (c : FaultCode) : ExecResult s i (raiseFault c (encode i).w0 s)
  | nop : ExecResult s .nop s.advance
  | halt : ExecResult s .halt (s.setStatus .halted).advance
  /-- A command with an XM destination: an XM block, and the arena where it needs one. -/
  | wroteXm {i : Instr} (hi : i.op ≠ .nop ∧ i.op ≠ .halt) (m : Memory Elt) (d : Nat) :
      ExecResult s i { s with xm := m, draws := d }.advance
  /-- A convolution: a CM block, and the arena in XM. -/
  | wroteCm {i : Instr} (hi : i.op = .cconv ∨ i.op = .pmul) (m : Memory Elt) (m' : Memory Word) (d : Nat) :
      ExecResult s i { s with xm := m, cm := m', draws := d }.advance

section

variable {s t : State} {i : Instr}

theorem ExecResult.of_command {check : Option FaultCode} {effect : State → State}
    (h : runCommand (encode i).w0 check effect s = .next t) (heffect : ExecResult s i (effect s).advance) :
    ExecResult s i t := by
  obtain ⟨c, -, rfl⟩ | ⟨-, rfl⟩ := runCommand_cases h
  · exact .trapped c
  · exact heffect

/-- Commands with an XM destination; those that do not look at the arena have `need = 0` (R46). -/
theorem ExecResult.of_writeXm (hi : i.op ≠ .nop ∧ i.op ≠ .halt) (base : Nat) (vs : List Elt) (need : Nat) :
    ExecResult s i ((s.writeXm base vs).clobberArena need).advance := by
  obtain ⟨m, d, hframe, -⟩ := (s.writeXm base vs).clobberArena_frame need
  rw [hframe]
  exact .wroteXm hi m d

theorem ExecResult.of_writeCm (hi : i.op = .cconv ∨ i.op = .pmul) (base : Nat) (vs : List Word) (need : Nat) :
    ExecResult s i ((s.writeCm base vs).clobberArena need).advance := by
  obtain ⟨m, d, hframe, -⟩ := (s.writeCm base vs).clobberArena_frame need
  rw [hframe]
  exact .wroteCm hi m _ d

/-- Everything a command can do to the state. -/
theorem ExecResult.of_exec (h : exec i s = .next t) : ExecResult s i t := by
  cases i with
    simp only [exec, execNop, execHalt, execEadd, execEsub, execEneg, execEmul, execEconj, execEemb, execEsc3, execTwid,
      execFft3, execIfft3, execMulmod, execCconv, execPmul] at h
  | nop => exact .of_command h .nop
  | halt => exact .of_command h .halt
  | eadd | esub | emul | eneg | econj | esc3 | eemb | twid =>
    exact .of_command h (.of_writeXm (by simp [Instr.op]) _ _ 0)
  | fft3 | ifft3 | mulmod => exact .of_command h (.of_writeXm (by simp [Instr.op]) _ _ _)
  | cconv | pmul => exact .of_command h (.of_writeCm (by simp [Instr.op]) _ _ _)

end

/-- Settles O48: in each of the five ways a command can end, what it may not write stands as it was. -/
theorem noCommandWritesWhatItMayNot : Obligations.NoCommandWritesWhatItMayNot := by
  intro i s t h
  cases ExecResult.of_exec h with
  | trapped | nop | halt => exact ⟨rfl, rfl, rfl, rfl, rfl, rfl, fun _ _ => rfl, fun _ => rfl⟩
  | wroteXm hi => exact ⟨rfl, rfl, rfl, rfl, rfl, rfl, fun _ _ => rfl, fun hnop => absurd hnop (not_or.2 hi)⟩
  | wroteCm hi =>
    refine ⟨rfl, rfl, rfl, rfl, rfl, rfl, fun hcconv hpmul => absurd hi (not_or.2 ⟨hcconv, hpmul⟩), fun hnop => ?_⟩
    obtain hi | hi := hi <;> simp [hi] at hnop

/-! ### `STATE` after a step -/

section

variable {s t : State} {i : Instr}

/-- A command leaves `STATE`, or it takes a fault, or it is `HALT` (R23). -/
theorem exec_status (h : exec i s = .next t) :
    t.status = s.status ∨ t.status = .fault ∨ (i = .halt ∧ t.status = .halted) := by
  cases ExecResult.of_exec h with
  | trapped => exact .inr (.inl rfl)
  | nop | wroteXm | wroteCm => exact .inl rfl
  | halt => exact .inr (.inr ⟨rfl, rfl⟩)

/-- A step of a running engine that does not fault fetched from inside KM (R161). -/
theorem cp_lt_kmSize_of_step (h : step s = .next t) (hrun : s.status = .run) (ht : t.status ≠ .fault) :
    s.cp.toNat < s.cfg.kmSize := by
  obtain ⟨hstop, -⟩ | ⟨-, -, hf⟩ | ⟨-, hcp, -⟩ | ⟨-, hcp, -⟩ := fetchDecode_cases s
  · exact absurd hrun hstop
  · simp only [step, hf, Host.Outcome.next.injEq] at h
    exact absurd (h ▸ raiseFault_status s .fetch 0) ht
  · exact hcp
  · exact hcp

theorem step_status (h : step s = .next t) :
    t.status = s.status ∨ (s.status = .run ∧ (t.status = .halted ∨ t.status = .fault)) := by
  obtain ⟨-, rfl⟩ | ⟨hrun, c, w0, rfl⟩ | ⟨hrun, i, -, hexec⟩ := step_cases h
  · exact .inl rfl
  · exact .inr ⟨hrun, .inr rfl⟩
  · obtain hsame | hfault | ⟨-, hhalted⟩ := exec_status hexec
    · exact .inl hsame
    · exact .inr ⟨hrun, .inr hfault⟩
    · exact .inr ⟨hrun, .inl hhalted⟩

/-- Only a `HALT` command takes a running engine to `HALTED` (R152). -/
theorem decode_halt_of_step (h : step s = .next t) (hrun : s.status = .run) (ht : t.status = .halted) :
    decode (s.kmAt s.cp.toNat) = .ok .halt := by
  obtain ⟨hstop, -⟩ | ⟨-, c, w0, rfl⟩ | ⟨-, i, hdecode, hexec⟩ := step_cases h
  · exact absurd hrun hstop
  · simp at ht
  · obtain hsame | hfault | ⟨rfl, -⟩ := exec_status hexec
    · simp [hsame, hrun] at ht
    · simp [hfault] at ht
    · exact hdecode

end

end Sys2Proof.Machine

/-! ## The host port, access by access

What each host access does: the strobes of `CTRL`, the registers, the memories. O49, O57 to O60 are read off these. -/

namespace Sys2Proof.Machine

section

variable {s : State} {v : Word}

/-! ### `START` and `CLEAR` (R154, R155) -/

theorem startRun_of_idle_or_halted (h : s.status = .idle ∨ s.status = .halted) : startRun s = s.setStatus .run := by
  obtain h | h := h <;> simp [startRun, h]

theorem startRun_of_run_or_fault (h : s.status = .run ∨ s.status = .fault) : startRun s = s := by
  obtain h | h := h <;> simp [startRun, h]

theorem clearFault_of_halted_or_fault (h : s.status = .halted ∨ s.status = .fault) :
    clearFault s = (s.setFaultRegs 0 0 0).setStatus .idle := by
  obtain h | h := h <;> simp [clearFault, h]

theorem clearFault_of_idle_or_run (h : s.status = .idle ∨ s.status = .run) : clearFault s = s := by
  obtain h | h := h <;> simp [clearFault, h]

theorem ctrlWrite_neither (hstart : v.getLsbD 0 = false) (hclear : v.getLsbD 1 = false) : ctrlWrite v s = s := by
  simp only [ctrlWrite, hstart, hclear, Bool.false_eq_true, if_false]

theorem ctrlWrite_start (hstart : v.getLsbD 0 = true) (hclear : v.getLsbD 1 = false) :
    ctrlWrite v s = startRun s := by
  simp only [ctrlWrite, hstart, hclear, if_true, Bool.false_eq_true, if_false]

theorem ctrlWrite_clear (hstart : v.getLsbD 0 = false) (hclear : v.getLsbD 1 = true) :
    ctrlWrite v s = clearFault s := by
  simp only [ctrlWrite, hstart, hclear, if_true, Bool.false_eq_true, if_false]

/-- `CLEAR` acts first and `START` second (R22). -/
theorem ctrlWrite_both (hstart : v.getLsbD 0 = true) (hclear : v.getLsbD 1 = true) :
    ctrlWrite v s = startRun (clearFault s) := by
  simp only [ctrlWrite, hstart, hclear, if_true]

/-! ### Registers (R156) -/

theorem hostWrite_ctrl (v : Word) (s : State) : hostWrite .csr 0 v s = ctrlWrite v s := rfl

theorem hostWrite_cp (v : Word) (s : State) :
    hostWrite .csr 2 v s = unlessRunning s fun s => s.setCp (v.setWidth 32) := rfl

theorem hostWrite_arenaBase (v : Word) (s : State) :
    hostWrite .csr 3 v s = unlessRunning s fun s => s.setArenaBase (v.setWidth 32) := rfl

theorem hostWrite_arenaSize (v : Word) (s : State) :
    hostWrite .csr 4 v s = unlessRunning s fun s => s.setArenaSize (v.setWidth 33) := rfl

theorem unlessRunning_of_run (f : State → State) (h : s.status = .run) : unlessRunning s f = s := by
  simp [unlessRunning, h]

theorem unlessRunning_of_ne_run (f : State → State) (h : s.status ≠ .run) : unlessRunning s f = f s := by
  obtain ⟨hrun, -⟩ | ⟨-, heq⟩ := unlessRunning_cases s f
  · exact absurd hrun h
  · exact heq

theorem unlessRunning_status {f : State → State} (hf : (f s).status = s.status) :
    (unlessRunning s f).status = s.status := by
  obtain ⟨-, heq⟩ | ⟨-, heq⟩ := unlessRunning_cases s f
  · rw [heq]
  · rw [heq, hf]

/-- The offsets that are read-only or reserved (R21). -/
theorem csrWrite_of_not_writable {off : Nat} (h : off = 1 ∨ 5 ≤ off) (h8 : off ≠ 8) : csrWrite off v s = s := by
  unfold csrWrite
  split
  case h_5 => exact absurd rfl h8
  case h_6 => rfl
  all_goals omega

theorem csrWrite_status {off : Nat} (hctrl : off ≠ 0) : (csrWrite off v s).status = s.status := by
  unfold csrWrite
  split
  · exact absurd rfl hctrl
  · exact unlessRunning_status rfl
  · exact unlessRunning_status rfl
  · exact unlessRunning_status rfl
  · rfl
  · rfl

/-- The offsets past the last register are reserved and read 0 (R21). -/
theorem csrRead_of_reserved {off : Nat} (h : 9 ≤ off) : csrRead off s = 0 := by
  obtain ⟨k, rfl⟩ := Nat.exists_eq_add_of_le' h
  rfl

/-! ### Memory accesses (R45) -/

section

variable {r : Region} {off : Nat}

/-- A host write reaches a memory where the engine is stopped and the region has the word; else it is dropped. -/
theorem hostWrite_memory (hr : r ≠ .csr) : hostWrite r off v s =
    if s.status ≠ .run ∧ off < regionSize s.cfg r then memSetWord r off v s else s := by
  have hport : hostWrite r off v s =
      unlessRunning s fun s => if off < regionSize s.cfg r then memSetWord r off v s else s := by
    cases r with
    | csr => exact absurd rfl hr
    | km | cm | xm => rfl
  rw [hport]
  by_cases hrun : s.status = .run
  · rw [unlessRunning_of_run _ hrun, if_neg (by simp [hrun])]
  · simp only [unlessRunning_of_ne_run _ hrun, ne_eq, hrun, not_false_eq_true, true_and]

theorem hostRead_of_run (hr : r ≠ .csr) (hrun : s.status = .run) : hostRead r off s = readAny s := by
  cases r with
  | csr => exact absurd rfl hr
  | km | cm | xm => simp only [hostRead, hrun]

theorem hostRead_of_ne_run (hr : r ≠ .csr) (hstop : s.status ≠ .run) :
    hostRead r off s = if off < regionSize s.cfg r then (memWord r off s, s) else readAny s := by
  cases r with
  | csr => exact absurd rfl hr
  | km | cm | xm =>
    cases hs : s.status with
    | run => exact absurd hs hstop
    | idle | halted | fault => simp only [hostRead, hs]

/-- A read leaves the state, or counts a draw of ANY (log 3). -/
theorem hostRead_state (r : Region) (off : Nat) (s : State) :
    (hostRead r off s).2 = s ∨ (hostRead r off s).2 = s.bumpDraws := by
  by_cases hr : r = .csr
  · exact .inl (by rw [hr]; rfl)
  · by_cases hrun : s.status = .run
    · exact .inr (by rw [hostRead_of_run hr hrun]; rfl)
    · rw [hostRead_of_ne_run hr hrun]
      split
      · exact .inl rfl
      · exact .inr rfl

theorem memSetWord_status : (memSetWord r off v s).status = s.status := by
  cases r <;> rfl

theorem memSetWord_cfg : (memSetWord r off v s).cfg = s.cfg := by
  cases r <;> rfl

/-- Of all host writes only one to `CTRL` changes `STATE` (R23). -/
theorem hostWrite_status (h : ¬ (r = .csr ∧ off = 0)) : (hostWrite r off v s).status = s.status := by
  by_cases hr : r = .csr
  · subst hr
    exact csrWrite_status fun hoff => h ⟨rfl, hoff⟩
  · rw [hostWrite_memory hr]
    split
    · exact memSetWord_status
    · rfl

end

end

end Sys2Proof.Machine

/-! ## O49, O57, O58, O60: `STATE`, the registers and the interrupt line at the host port -/

namespace Sys2Proof.Machine

/-- One strobe or both move `STATE` as R22 and R155 say; with both, `CLEAR` has acted before `START`. -/
theorem ctrlWrite_status (v : Word) (s : State) : (ctrlWrite v s).status = s.status ∨
    (s.status = .idle ∧ (ctrlWrite v s).status = .run) ∨
    (s.status = .halted ∧ ((ctrlWrite v s).status = .run ∨ (ctrlWrite v s).status = .idle)) ∨
    (s.status = .fault ∧ (ctrlWrite v s).status = .idle) ∨
    (s.status = .fault ∧ (ctrlWrite v s).status = .run ∧ v.getLsbD 0 = true ∧ v.getLsbD 1 = true) := by
  cases hstart : v.getLsbD 0 <;> cases hclear : v.getLsbD 1
  case false.false => exact .inl (by rw [ctrlWrite_neither hstart hclear])
  case true.false =>
    rw [ctrlWrite_start hstart hclear]
    obtain ⟨hs | hs, heq⟩ | ⟨-, heq⟩ := startRun_cases s <;> simp [*]
  case false.true =>
    rw [ctrlWrite_clear hstart hclear]
    obtain ⟨hs | hs, heq⟩ | ⟨-, heq⟩ := clearFault_cases s <;> simp [*]
  case true.true =>
    rw [ctrlWrite_both hstart hclear]
    obtain ⟨hs, heq⟩ | ⟨hs, heq⟩ := clearFault_cases s <;> rw [heq]
    · rw [startRun_of_idle_or_halted (.inl rfl)]
      obtain hs | hs := hs <;> simp [hs]
    · obtain ⟨hs | hs, heq⟩ | ⟨-, heq⟩ := startRun_cases s <;> simp [*]

/-- Settles O49: a step moves `STATE` by its fetch or its command alone, and the host by a write to `CTRL` alone. -/
theorem stateMovesOnlyAlongItsTransitions : Obligations.StateMovesOnlyAlongItsTransitions := by
  refine ⟨fun s t => step_status, fun s t h hrun ht => ?_, fun a s hreset => ?_, fun s => rfl⟩
  · exact ⟨cp_lt_kmSize_of_step h hrun (by simp [ht]), decode_halt_of_step h hrun ht⟩
  · cases a with
    | reset => exact absurd rfl hreset
    | read r off =>
      left
      obtain heq | heq := hostRead_state r off s <;> simp [hostAct, heq]
    | write r off v =>
      by_cases hctrl : r = .csr ∧ off = 0
      · obtain ⟨rfl, rfl⟩ := hctrl
        have hmoves := ctrlWrite_status v s
        simpa [hostAct, hostWrite_ctrl] using hmoves
      · exact .inl (hostWrite_status hctrl)

/-- Settles O57: each setting of the strobes is `START`, `CLEAR`, both or neither, and each acts or is dropped as `STATE` says. -/
theorem startAndClearActAsTheRulesSay : Obligations.StartAndClearActAsTheRulesSay := by
  intro s v
  refine ⟨rfl, ctrlWrite_neither, fun hstart hclear => ⟨fun hs => ?_, fun hs => ?_⟩,
    fun hstart hclear => ⟨fun hs => ?_, fun hs => ?_⟩, fun hstart hclear => ⟨fun hs => ?_, fun hs => ?_, fun hs => ?_⟩⟩
  · exact (ctrlWrite_start hstart hclear).trans (startRun_of_idle_or_halted hs)
  · exact (ctrlWrite_start hstart hclear).trans (startRun_of_run_or_fault hs)
  · exact (ctrlWrite_clear hstart hclear).trans (clearFault_of_halted_or_fault hs)
  · exact (ctrlWrite_clear hstart hclear).trans (clearFault_of_idle_or_run hs)
  · calc ctrlWrite v s
      _ = startRun (clearFault s) := ctrlWrite_both hstart hclear
      _ = startRun ((s.setFaultRegs 0 0 0).setStatus .idle) := by rw [clearFault_of_halted_or_fault hs]
      _ = (s.setFaultRegs 0 0 0).setStatus .run := startRun_of_idle_or_halted (.inl rfl)
  · calc ctrlWrite v s
      _ = startRun (clearFault s) := ctrlWrite_both hstart hclear
      _ = startRun s := by rw [clearFault_of_idle_or_run (.inl hs)]
      _ = s.setStatus .run := startRun_of_idle_or_halted (.inl hs)
  · calc ctrlWrite v s
      _ = startRun (clearFault s) := ctrlWrite_both hstart hclear
      _ = startRun s := by rw [clearFault_of_idle_or_run (.inr hs)]
      _ = s := startRun_of_run_or_fault (.inl hs)

/-- `STATUS` shows the code of `STATE` (R23). -/
theorem csrRead_status {s : State} {r : RunState} (h : s.status = r) : csrRead 1 s = r.code.setWidth 64 := by
  rw [← h]
  rfl

/-- Settles O58: a read zero-extends the register; a write keeps the bits that the register has, and is dropped as R156 says. -/
theorem csrBlockReadsAndWrites : Obligations.CsrBlockReadsAndWrites := by
  intro s v
  have hread {w : Nat} (hw : w ≤ 64) (x : BitVec w) : (x.setWidth 64).toNat = x.toNat := BitVec.toNat_setWidth_of_le hw
  simp only [BitVec.ofNat_toNat]
  refine ⟨⟨csrRead_status, csrRead_status, csrRead_status, csrRead_status⟩,
    ⟨rfl, hread (by decide) s.cp, hread (by decide) s.arenaBase, hread (by decide) s.arenaSize,
      hread (by decide) s.fcode, hread (by decide) s.fcp, rfl, hread (by decide) s.irqEn, fun _ => csrRead_of_reserved⟩,
    fun _ => rfl, fun hstop => ⟨?_, ?_, ?_⟩, fun hrun off hoff => ?_, rfl, fun _ => csrWrite_of_not_writable⟩
  · exact (hostWrite_cp v s).trans (unlessRunning_of_ne_run _ hstop)
  · exact (hostWrite_arenaBase v s).trans (unlessRunning_of_ne_run _ hstop)
  · exact (hostWrite_arenaSize v s).trans (unlessRunning_of_ne_run _ hstop)
  · obtain rfl | rfl | rfl := hoff
    · exact (hostWrite_cp v s).trans (unlessRunning_of_run _ hrun)
    · exact (hostWrite_arenaBase v s).trans (unlessRunning_of_run _ hrun)
    · exact (hostWrite_arenaSize v s).trans (unlessRunning_of_run _ hrun)

/-! ### The interrupt line -/

theorem State.irq_iff {s : State} : s.irq = true ↔
    (s.irqEn.getLsbD 0 = true ∧ s.status = .halted) ∨ (s.irqEn.getLsbD 1 = true ∧ s.status = .fault) := by
  simp [State.irq, State.enHalt, State.enFault]

/-- `IRQ` is low while the engine is neither `HALTED` nor `FAULT`. -/
theorem State.irq_of_idle_or_run {s : State} (h : s.status = .idle ∨ s.status = .run) : s.irq = false := by
  rw [← Bool.not_eq_true, State.irq_iff]
  obtain h | h := h <;> simp [h]

/-- `IRQ` is low while no enable is set. -/
theorem State.irq_of_irqEn_zero {s : State} (h : s.irqEn = 0) : s.irq = false := by
  rw [← Bool.not_eq_true, State.irq_iff]
  simp [h]

theorem clearFault_idle_or_run (s : State) : (clearFault s).status = .idle ∨ (clearFault s).status = .run := by
  obtain ⟨-, heq⟩ | ⟨hs, heq⟩ := clearFault_cases s
  · exact .inl (by rw [heq]; rfl)
  · rwa [heq]

/-- Settles O60: `CLEAR`, reset and `START` from `HALTED` leave a state without a cause, and a cleared `IRQ_EN` enables none. -/
theorem irqIsAFunctionOfStatusAndEnables : Obligations.IrqIsAFunctionOfStatusAndEnables := by
  refine ⟨fun s => State.irq_iff, fun s => ⟨?_, State.irq_of_irqEn_zero rfl, State.irq_of_irqEn_zero rfl, fun hs => ?_⟩⟩
  · have hclear : hostWrite .csr 0 2 s = clearFault s := by
      rw [hostWrite_ctrl, ctrlWrite_clear (by decide) (by decide)]
    rw [hclear]
    exact State.irq_of_idle_or_run (clearFault_idle_or_run s)
  · have hstart : hostWrite .csr 0 1 s = s.setStatus .run := by
      rw [hostWrite_ctrl, ctrlWrite_start (by decide) (by decide), startRun_of_idle_or_halted (.inr hs)]
    rw [hstart]
    exact State.irq_of_idle_or_run (.inr rfl)

end Sys2Proof.Machine

/-! ## O59: the memories at the host port

A host write of a word replaces one word of one unit: what it leaves alone is another memory, another unit, or another word of the same
unit. -/

namespace Sys2Proof.Machine

/-! ### The words of a unit -/

theorem eltWord_eltSetWord_self (u : Elt) (j : Nat) (v : Word) : eltWord (eltSetWord u j v) j = v := by
  by_cases hj : j = 0 <;> simp [eltWord, eltSetWord, hj]

theorem eltWord_eltSetWord_ne (u : Elt) (v : Word) {j j' : Nat} (hj : j < 2) (hj' : j' < 2) (hne : j' ≠ j) :
    eltWord (eltSetWord u j v) j' = eltWord u j' := by
  by_cases h0 : j = 0
  · simp [eltWord, eltSetWord, h0, show j' ≠ 0 by omega]
  · simp [eltWord, eltSetWord, h0, show j' = 0 by omega]

theorem descWord_descSetWord_self (d : Descriptor) (j : Nat) (v : Word) : descWord (descSetWord d j v) j = v := by
  unfold descWord descSetWord
  split_ifs <;> rfl

theorem descWord_descSetWord_ne (d : Descriptor) (v : Word) {j j' : Nat} (hj : j < 3) (hj' : j' < 3) (hne : j' ≠ j) :
    descWord (descSetWord d j v) j' = descWord d j' := by
  obtain rfl | rfl | rfl : j = 0 ∨ j = 1 ∨ j = 2 := by omega
  · simp [descWord, descSetWord, hne]
  · simp [descWord, descSetWord, hne]
  · obtain rfl | rfl : j' = 0 ∨ j' = 1 := by omega
    · rfl
    · rfl

/-! ### A unit after the write of a unit (R42) -/

section

variable (s : State)

theorem State.xmAt_setXm_put (e e' : Nat) (u : Elt) :
    (s.setXm (s.xm.put e (.val u))).xmAt e' = if e' = e then u else s.xmAt e' := by
  split
  case isTrue h => simp [State.xmAt, h]
  case isFalse h => exact State.xmAt_congr (Memory.get_put_ne _ h _) rfl

theorem State.cmAt_setCm_put (w w' : Nat) (u : Word) :
    (s.setCm (s.cm.put w (.val u))).cmAt w' = if w' = w then u else s.cmAt w' := by
  split
  case isTrue h => simp [State.cmAt, h]
  case isFalse h => exact State.cmAt_congr (Memory.get_put_ne _ h _) rfl

theorem State.kmAt_setKm_put (c c' : Nat) (d : Descriptor) :
    (s.setKm (s.km.put c (.val d))).kmAt c' = if c' = c then d else s.kmAt c' := by
  split
  case isTrue h => simp [State.kmAt, h]
  case isFalse h => exact State.kmAt_congr (Memory.get_put_ne _ h _) rfl

end

/-! ### A word after the write of a word -/

section

variable {s : State} {r r' : Region} {off off' : Nat} {v : Word}

theorem memWord_memSetWord_self (hr : r ≠ .csr) : memWord r off (memSetWord r off v s) = v := by
  cases r with
  | csr => exact absurd rfl hr
  | km => simp only [memWord, memSetWord, State.kmAt_setKm_put, if_true, descWord_descSetWord_self]
  | cm => simp only [memWord, memSetWord, State.cmAt_setCm_put, if_true]
  | xm => simp only [memWord, memSetWord, State.xmAt_setXm_put, if_true, eltWord_eltSetWord_self]

/-- A write leaves the other words of its own memory: those of other units, and those of its unit. -/
theorem memWord_memSetWord_same_region (hoff : off' ≠ off) : memWord r off' (memSetWord r off v s) = memWord r off' s := by
  cases r with
  | csr => rfl
  | km =>
    simp only [memWord, memSetWord, State.kmAt_setKm_put]
    split
    case isTrue hunit => rw [hunit, descWord_descSetWord_ne _ _ (by omega) (by omega) (by omega)]
    case isFalse => rfl
  | cm => simp only [memWord, memSetWord, State.cmAt_setCm_put, if_neg hoff]
  | xm =>
    simp only [memWord, memSetWord, State.xmAt_setXm_put]
    split
    case isTrue hunit => rw [hunit, eltWord_eltSetWord_ne _ _ (by omega) (by omega) (by omega)]
    case isFalse => rfl

theorem memWord_memSetWord_other_region (hr : r' ≠ r) : memWord r' off' (memSetWord r off v s) = memWord r' off' s := by
  cases r with
  | csr => rfl
  | km =>
    cases r' with
    | km => exact absurd rfl hr
    | csr | cm | xm => rfl
  | cm =>
    cases r' with
    | cm => exact absurd rfl hr
    | csr | km | xm => rfl
  | xm =>
    cases r' with
    | xm => exact absurd rfl hr
    | csr | km | cm => rfl

theorem memWord_memSetWord_ne (hne : (r', off') ≠ (r, off)) :
    memWord r' off' (memSetWord r off v s) = memWord r' off' s := by
  by_cases hr : r' = r
  · subst hr
    exact memWord_memSetWord_same_region fun hoff => hne (by rw [hoff])
  · exact memWord_memSetWord_other_region hr

/-- The layout of R17. -/
theorem memWord_layout (s : State) (e w c : Nat) :
    memWord .xm (2 * e) s = (s.xmAt e).a ∧ memWord .xm (2 * e + 1) s = (s.xmAt e).b ∧ memWord .cm w s = s.cmAt w ∧
      memWord .km (3 * c) s = (s.kmAt c).w0 ∧ memWord .km (3 * c + 1) s = (s.kmAt c).w1 ∧
      memWord .km (3 * c + 2) s = (s.kmAt c).w2 := by
  have helt : (2 * e + 1) / 2 = e := by omega
  have hdesc1 : (3 * c + 1) / 3 = c := by omega
  have hdesc2 : (3 * c + 2) / 3 = c := by omega
  simp [memWord, eltWord, descWord, helt, hdesc1, hdesc2, Nat.add_mod]

/-- A host write to a memory changes that memory alone, whether it reaches a unit or is dropped. -/
theorem hostWrite_memory_frame (hr : r ≠ .csr) :
    (r = .xm → hostWrite r off v s = { s with xm := (hostWrite r off v s).xm }) ∧
      (r = .cm → hostWrite r off v s = { s with cm := (hostWrite r off v s).cm }) ∧
      (r = .km → hostWrite r off v s = { s with km := (hostWrite r off v s).km }) := by
  rw [hostWrite_memory hr]
  split
  · refine ⟨?_, ?_, ?_⟩ <;> rintro rfl <;> rfl
  · exact ⟨fun _ => rfl, fun _ => rfl, fun _ => rfl⟩

end

/-- Settles O59: while stopped, a host write sets one word of one unit; while running, every access is kept out (R45). -/
theorem hostMemoryPortObeysOwnership : Obligations.HostMemoryPortObeysOwnership := by
  refine ⟨memWord_layout, fun s r off v hr => ⟨hostWrite_memory_frame hr, fun hstop hoff => ?_, fun hrun => ?_⟩⟩
  · have hwrite : hostWrite r off v s = memSetWord r off v s := by rw [hostWrite_memory hr, if_pos ⟨hstop, hoff⟩]
    rw [hwrite]
    refine ⟨?_, fun r' off' _ hne => memWord_memSetWord_ne hne, ?_⟩
    · rw [hostRead_of_ne_run hr (by rwa [memSetWord_status]), if_pos (by rwa [memSetWord_cfg]),
        memWord_memSetWord_self hr]
    · rw [hostRead_of_ne_run hr hstop, if_pos hoff]
  · have hdropped : hostWrite r off v s = s := by rw [hostWrite_memory hr, if_neg (by simp [hrun])]
    rw [hostRead_of_run hr hrun]
    exact ⟨hdropped, rfl, rfl⟩

end Sys2Proof.Machine

/-! ## O50: a command with `NEED = 0` does not look at the arena registers

A command is its check and its effect, so it ignores the arena registers where both do (`runCommand_withArena`). Only the arena checks
and the clobber read these registers, and at `NEED = 0` they are without effect. -/

namespace Sys2Proof.Machine

/-- The state with other values in `ARENA_BASE` and `ARENA_SIZE`. -/
def State.withArena (s : State) (b : BitVec 32) (z : BitVec 33) : State := { s with arenaBase := b, arenaSize := z }

/-- A command ignores the arena registers where its check and its effect do. -/
theorem runCommand_withArena {w0 : Word} {check check' : Option FaultCode} {effect : State → State} {s t : State}
    {b : BitVec 32} {z : BitVec 33} (h : runCommand w0 check effect s = .next t) (hcheck : check' = check)
    (heffect : effect (s.withArena b z) = (effect s).withArena b z) :
    runCommand w0 check' effect (s.withArena b z) = .next (t.withArena b z) := by
  subst hcheck
  obtain ⟨c, rfl, rfl⟩ | ⟨rfl, rfl⟩ := runCommand_cases h
  · rfl
  · rw [runCommand_none, heffect]
    rfl

/-! ### The checks and the effects of the commands that have a need -/

section

variable (s : State) (b : BitVec 32) (z : BitVec 33)

@[simp] theorem arenaBad_zero : arenaBad s 0 = false := rfl

@[simp] theorem arenaClash_zero (base len : Nat) : arenaClash s 0 base len = false := rfl

theorem transformCheck_withArena {r m : Nat} (dst : Nat) (h : needFft r m = 0) :
    transformCheck (s.withArena b z) dst r m = transformCheck s dst r m := by
  simp only [transformCheck, h, arenaBad_zero, arenaClash_zero]
  rfl

theorem mulmodCheck_withArena {n : Nat} (dst src0 src1 : Nat) (h : needMul n = 0) :
    mulmodCheck (s.withArena b z) dst src0 src1 n = mulmodCheck s dst src0 src1 n := by
  simp only [mulmodCheck, h, arenaBad_zero, arenaClash_zero]
  rfl

theorem transformXm_withArena (f : List Block → Nat → List Block) {r m : Nat} (dst : Nat) (h : needFft r m = 0) :
    transformXm f dst r m (s.withArena b z) = (transformXm f dst r m s).withArena b z := by
  simp only [transformXm, h, State.clobberArena_zero]
  rfl

/-- The block write of `MULMOD`, with the clobber of a need of 0 behind it. -/
theorem mulmodEffect_withArena {n : Nat} (dst src0 src1 : Nat) (h : needMul n = 0) :
    ((s.withArena b z).writeXm dst (mulmod ((s.withArena b z).readXm src0 n)
        ((s.withArena b z).readXm src1 n))).clobberArena (needMul n) =
      ((s.writeXm dst (mulmod (s.readXm src0 n) (s.readXm src1 n))).clobberArena (needMul n)).withArena b z := by
  simp only [h, State.clobberArena_zero]
  rfl

end

/-- Settles O50: the commands without a need read no arena register, and those whose need is 0 have a check and an effect that ignore
what they read there. -/
theorem commandsWithoutNeedIgnoreTheArena : Obligations.CommandsWithoutNeedIgnoreTheArena := by
  intro i s t b z hneed h
  change exec i (s.withArena b z) = .next (t.withArena b z)
  cases i with
    simp only [exec, execNop, execHalt, execEadd, execEsub, execEneg, execEmul, execEconj, execEemb, execEsc3, execTwid,
      execFft3, execIfft3, execMulmod] at h ⊢
  | nop | halt | eadd | esub | emul | eneg | econj | esc3 | eemb | twid => exact runCommand_withArena h rfl rfl
  | fft3 | ifft3 =>
    exact runCommand_withArena h (transformCheck_withArena s b z _ hneed) (transformXm_withArena s b z _ _ hneed)
  | mulmod =>
    exact runCommand_withArena h (mulmodCheck_withArena s b z _ _ _ hneed) (mulmodEffect_withArena s b z _ _ _ hneed)
  | cconv | pmul => exact False.elim hneed

end Sys2Proof.Machine

/-! ## O52: the acts of the host and of the platform keep the invariant

A host write reaches a register, the strobes of `CTRL`, or one unit inside its memory; a read can only count a draw; reset begins
anew. With the step of the engine (O51), induction over the events gives every interleaving. -/

namespace Sys2Proof.Machine

section

variable {s : State}

/-! ### Registers and strobes -/

/-- The invariant says nothing of the registers that the host sets. -/
theorem State.Sound.withRegisters (hs : s.Sound) (cp b : BitVec 32) (z : BitVec 33) (e : BitVec 2) :
    ({ s with cp := cp, arenaBase := b, arenaSize := z, irqEn := e } : State).Sound :=
  ⟨hs.cfg, hs.xm, hs.cm, hs.km, hs.draws, hs.faultRegs⟩

theorem State.Sound.startRun (hs : s.Sound) : (startRun s).Sound := by
  obtain ⟨hstopped, heq⟩ | ⟨-, heq⟩ := startRun_cases s <;> rw [heq]
  · exact hs.setStatus (by obtain h | h := hstopped <;> simp [h]) (by decide)
  · exact hs

/-- `CLEAR` leaves `FAULT` with the fault registers 0, as `IDLE` must have them (R155). -/
theorem State.Sound.clearFault (hs : s.Sound) : (clearFault s).Sound := by
  obtain ⟨-, heq⟩ | ⟨-, heq⟩ := clearFault_cases s <;> rw [heq]
  · exact ⟨hs.cfg, hs.xm, hs.cm, hs.km, hs.draws, rfl⟩
  · exact hs

theorem State.Sound.ctrlWrite (hs : s.Sound) (v : Word) : (ctrlWrite v s).Sound := by
  cases hstart : v.getLsbD 0 <;> cases hclear : v.getLsbD 1
  case false.false => rwa [ctrlWrite_neither hstart hclear]
  case true.false =>
    rw [ctrlWrite_start hstart hclear]
    exact hs.startRun
  case false.true =>
    rw [ctrlWrite_clear hstart hclear]
    exact hs.clearFault
  case true.true =>
    rw [ctrlWrite_both hstart hclear]
    exact hs.clearFault.startRun

theorem State.Sound.unlessRunning (hs : s.Sound) {f : State → State} (hf : (f s).Sound) : (unlessRunning s f).Sound := by
  obtain ⟨-, heq⟩ | ⟨-, heq⟩ := unlessRunning_cases s f <;> rwa [heq]

theorem State.Sound.csrWrite (hs : s.Sound) (off : Nat) (v : Word) : (csrWrite off v s).Sound := by
  unfold Machine.csrWrite
  split
  · exact hs.ctrlWrite v
  · exact hs.unlessRunning (hs.withRegisters _ _ _ _)
  · exact hs.unlessRunning (hs.withRegisters _ _ _ _)
  · exact hs.unlessRunning (hs.withRegisters _ _ _ _)
  · exact hs.withRegisters _ _ _ _
  · exact hs

/-! ### Memory accesses -/

theorem Memory.Sound.put_val {α : Type} {m : Memory α} {size draws : Nat} (hm : m.Sound size draws) {a : Nat}
    (ha : a < size) (v : α) : (m.put a (.val v)).Sound size draws :=
  ⟨Memory.wf_put hm.wf a _, Memory.within_put hm.within ha _, Memory.drawnBefore_put_val hm.drawn v⟩

/-- A word inside a region belongs to a unit inside its memory (R17). -/
theorem State.Sound.memSetWord (hs : s.Sound) {r : Region} {off : Nat} (v : Word) (hoff : off < regionSize s.cfg r) :
    (memSetWord r off v s).Sound := by
  cases r with
    simp only [regionSize] at hoff
  | csr => exact hs
  | km =>
    have hunit : off / 3 < s.cfg.kmSize := by omega
    exact ⟨hs.cfg, hs.xm, hs.cm, hs.km.put_val hunit _, hs.draws, hs.faultRegs⟩
  | cm => exact ⟨hs.cfg, hs.xm, hs.cm.put_val hoff _, hs.km, hs.draws, hs.faultRegs⟩
  | xm =>
    have hunit : off / 2 < s.cfg.xmSize := by omega
    exact ⟨hs.cfg, hs.xm.put_val hunit _, hs.cm, hs.km, hs.draws, hs.faultRegs⟩

theorem State.Sound.hostWrite (hs : s.Sound) (r : Region) (off : Nat) (v : Word) : (hostWrite r off v s).Sound := by
  by_cases hr : r = .csr
  · subst hr
    exact hs.csrWrite off v
  · rw [hostWrite_memory hr]
    split
    case isTrue h =>
      obtain ⟨-, hoff⟩ := h
      exact hs.memSetWord v hoff
    case isFalse => exact hs

theorem State.Sound.bumpDraws (hs : s.Sound) : s.bumpDraws.Sound :=
  ⟨hs.cfg, hs.xm.mono (Nat.le_succ _), hs.cm.mono (Nat.le_succ _), hs.km.mono (Nat.le_succ _),
    Nat.le_succ_of_le hs.draws, hs.faultRegs⟩

theorem State.Sound.hostRead (hs : s.Sound) (r : Region) (off : Nat) : (hostRead r off s).2.Sound := by
  obtain heq | heq := hostRead_state r off s <;> rw [heq]
  · exact hs
  · exact hs.bumpDraws

/-! ### Reset -/

theorem Memory.sound_nil {α : Type} (size draws : Nat) : Memory.Sound ([] : Memory α) size draws := ⟨rfl, rfl, rfl⟩

/-- Of the state before, the invariant after reset needs only the sizes (R4, R191). -/
theorem platformReset_sound (hcfg : s.cfg.wf = true) : (platformReset s).Sound :=
  ⟨hcfg, Memory.sound_nil _ _, Memory.sound_nil _ _, Memory.sound_nil _ _, Nat.le_refl 1, rfl⟩

/-! ### Every act and every interleaving -/

theorem State.Sound.hostAct (hs : s.Sound) (a : HostAct) : (hostAct a s).Sound := by
  cases a with
  | write r off v => exact hs.hostWrite r off v
  | read r off => exact hs.hostRead r off
  | reset => exact platformReset_sound hs.cfg

theorem State.Sound.after_event {e : Event} {t : State} (hs : s.Sound) (h : eventStep e s = .next t) : t.Sound := by
  cases e with
  | engine => exact hs.after_step h
  | host a =>
    obtain rfl := Host.Outcome.next.inj h
    exact hs.hostAct a

/-- A run of events with a next state is its first event, then the rest. -/
theorem runEvents_cons {e : Event} {es : List Event} {t : State} (h : runEvents (e :: es) s = .next t) :
    ∃ u, eventStep e s = .next u ∧ runEvents es u = .next t := by
  simp only [runEvents] at h
  split at h
  case h_1 u hu => exact ⟨u, hu, h⟩
  all_goals cases h

theorem State.Sound.after_events {es : List Event} {t : State} (hs : s.Sound) (h : runEvents es s = .next t) :
    t.Sound := by
  induction es generalizing s with
  | nil =>
    obtain rfl := Host.Outcome.next.inj h
    exact hs
  | cons e es ih =>
    obtain ⟨u, hfirst, hrest⟩ := runEvents_cons h
    exact ih (hs.after_event hfirst) hrest

end

/-- Settles O52: each kind of act keeps `State.Sound`, and so does a run of events, by induction on the events. -/
theorem everyOutsideActKeepsTheInvariant : Obligations.EveryOutsideActKeepsTheInvariant := by
  simp only [Obligations.EveryOutsideActKeepsTheInvariant, State.inv_iff_sound]
  exact ⟨fun a _ hs => hs.hostAct a, fun _ _ _ hs => hs.after_events⟩

end Sys2Proof.Machine

/-! ## O19 to O21, O26: descriptors, commands and the opcode table

`Instr.fields` and `Op.build` go between a command and the fields that spell it, and they undo each other: one way on every command,
the other way on fields that are clear where the command does not use them. `Fields.pack` and `Descriptor.fields` undo each other where
every field fits its width (`Fields.Fits`), which is what `Instr.wf` says of a command. A row of the opcode table is the code of an `Op`
and a mask over the fields that it does not use (`opRow`); so the decoder and the table reject the same descriptors. -/

namespace Sys2Proof

section

variable {d : Descriptor} {f : Fields} {i : Instr} {o : Op}

/-! ### What the decoder answers (R52) -/

theorem opOfCode_eq_some_iff {c : Nat} : opOfCode c = some o ↔ o.code = c := by
  constructor
  · intro h
    unfold opOfCode at h
    split at h <;> cases h <;> rfl
  · rintro rfl
    cases o <;> rfl

/-- The two checks of R52 in their order: `r` is what the decoder answers for a descriptor. -/
theorem decode_eq_iff {r : Except DecodeError Instr} : decode d = r ↔
    (∀ o : Op, o.code ≠ d.fields.opc) ∧ .error .badOpcode = r ∨
      ∃ o : Op, o.code = d.fields.opc ∧
        (reservedClear o.uses d.fields = false ∧ .error .badReserved = r ∨
          reservedClear o.uses d.fields = true ∧ .ok (o.build d.fields) = r) := by
  simp only [decode, ne_eq, ← opOfCode_eq_some_iff]
  cases opOfCode d.fields.opc with
  | none => simp
  | some o => cases h : reservedClear o.uses d.fields <;> simp [h]

theorem decode_eq_ok_iff :
    decode d = .ok i ↔ ∃ o : Op, o.code = d.fields.opc ∧ reservedClear o.uses d.fields = true ∧ o.build d.fields = i := by
  simp [decode_eq_iff]

theorem decode_eq_badReserved_iff :
    decode d = .error .badReserved ↔ ∃ o : Op, o.code = d.fields.opc ∧ reservedClear o.uses d.fields = false := by
  simp [decode_eq_iff]

theorem decode_eq_badOpcode_iff : decode d = .error .badOpcode ↔ ∀ o : Op, o.code ≠ d.fields.opc := by
  simp [decode_eq_iff]

/-! ### Fields of their widths (R50, R51) -/

/-- Every field has a number of its width (R50). -/
structure Fields.Fits (f : Fields) : Prop where
  opc : f.opc < 2 ^ 8
  k : f.k < 2 ^ 8
  rsv : f.rsv < 2 ^ 16
  n : f.n < 2 ^ 32
  dst : f.dst < 2 ^ 32
  src0 : f.src0 < 2 ^ 32
  src1 : f.src1 < 2 ^ 32
  aux : f.aux < 2 ^ 32

theorem Descriptor.fits_fields (d : Descriptor) : d.fields.Fits :=
  ⟨BitVec.isLt _, BitVec.isLt _, BitVec.isLt _, BitVec.isLt _, BitVec.isLt _, BitVec.isLt _, BitVec.isLt _, BitVec.isLt _⟩

theorem Fields.Fits.fields_pack (hf : f.Fits) : f.pack.fields = f := by
  rw [Fields.fields_pack, Nat.mod_eq_of_lt hf.opc, Nat.mod_eq_of_lt hf.k, Nat.mod_eq_of_lt hf.rsv, Nat.mod_eq_of_lt hf.n,
    Nat.mod_eq_of_lt hf.dst, Nat.mod_eq_of_lt hf.src0, Nat.mod_eq_of_lt hf.src1, Nat.mod_eq_of_lt hf.aux]

theorem Fields.fits_iff : f.Fits ↔ f.opc < 2 ^ 8 ∧ f.k < 2 ^ 8 ∧ f.rsv < 2 ^ 16 ∧ f.n < 2 ^ 32 ∧ f.dst < 2 ^ 32 ∧
    f.src0 < 2 ^ 32 ∧ f.src1 < 2 ^ 32 ∧ f.aux < 2 ^ 32 :=
  ⟨fun h => ⟨h.opc, h.k, h.rsv, h.n, h.dst, h.src0, h.src1, h.aux⟩,
    fun ⟨hopc, hk, hrsv, hn, hdst, hsrc0, hsrc1, haux⟩ => ⟨hopc, hk, hrsv, hn, hdst, hsrc0, hsrc1, haux⟩⟩

/-- A command is well-formed where the fields that spell it have their widths: the other fields are 0. -/
theorem Instr.wf_iff_fits : i.wf = true ↔ i.fields.Fits := by
  cases i <;> simp [Instr.wf, fits32, fits8, Instr.fields, Instr.op, Op.code, Fields.fits_iff] <;> omega

/-! ### Commands and the fields that spell them (R56, R59) -/

theorem Instr.fields_opc (i : Instr) : i.fields.opc = i.op.code := by
  cases i <;> rfl

/-- A command spells 0 in the fields it does not use. -/
theorem Instr.reservedClear_fields (i : Instr) : reservedClear i.op.uses i.fields = true := by
  cases i <;> rfl

theorem Instr.build_fields (i : Instr) : i.op.build i.fields = i := by
  cases i <;> rfl

theorem reservedClear_iff {u : Uses} : reservedClear u f = true ↔ f.rsv = 0 ∧ (u.n = true ∨ f.n = 0) ∧
    (u.k = true ∨ f.k = 0) ∧ (u.dst = true ∨ f.dst = 0) ∧ (u.src0 = true ∨ f.src0 = 0) ∧ (u.src1 = true ∨ f.src1 = 0) ∧
    (u.aux = true ∨ f.aux = 0) := by
  simp [reservedClear, and_assoc]

/-- The fields of a command that was read from clear fields are those fields: none is lost. -/
theorem Op.fields_build (hcode : o.code = f.opc) (hclear : reservedClear o.uses f = true) : (o.build f).fields = f := by
  obtain ⟨opc, k, rsv, n, dst, src0, src1, aux⟩ := f
  cases o <;> simp [reservedClear_iff, Op.uses] at hclear <;>
    simpa [Op.build, Instr.fields, Instr.op, hclear] using hcode

/-! ### The round trips -/

theorem decode_encode (hwf : i.wf = true) : decode (encode i) = .ok i := by
  have hfields : (encode i).fields = i.fields := (Instr.wf_iff_fits.1 hwf).fields_pack
  rw [decode_eq_ok_iff, hfields]
  exact ⟨i.op, i.fields_opc.symm, i.reservedClear_fields, i.build_fields⟩

theorem fields_of_decode (h : decode d = .ok i) : i.fields = d.fields := by
  obtain ⟨o, hcode, hclear, rfl⟩ := decode_eq_ok_iff.1 h
  exact Op.fields_build hcode hclear

theorem wf_of_decode (h : decode d = .ok i) : i.wf = true :=
  Instr.wf_iff_fits.2 (fields_of_decode h ▸ d.fits_fields)

theorem encode_of_decode (h : decode d = .ok i) : encode i = d := by
  rw [encode, fields_of_decode h, d.pack_fields]

end

end Sys2Proof

namespace Sys2Proof.Machine

/-- Settles O19: the fields of the descriptor are those that spell the command, and the decoder builds the command from them. -/
theorem decodeAfterEncodeGivesTheCommandBack : Obligations.DecodeAfterEncodeGivesTheCommandBack :=
  fun _ hwf => decode_encode hwf

/-- Settles O20: the command has the fields of the descriptor, and a descriptor is the packing of its fields. -/
theorem everyLegalDescriptorHasOneSpelling : Obligations.EveryLegalDescriptorHasOneSpelling :=
  fun _ _ h => ⟨wf_of_decode h, encode_of_decode h⟩

/-! ### The rows of the opcode table (R53, R55, R56) -/

/-- The number in a field of width `w` of a `must_be_zero_mask`: all ones where the command does not use the field. -/
def unusedOnes (w : Nat) (used : Bool) : Nat := if used then 0 else 2 ^ w - 1

/-- All ones in `RSV` and in every field that is not used. -/
def mustBeZeroFields (u : Uses) : Fields :=
  { opc := 0
    k := unusedOnes 8 u.k
    rsv := unusedOnes 16 false
    n := unusedOnes 32 u.n
    dst := unusedOnes 32 u.dst
    src0 := unusedOnes 32 u.src0
    src1 := unusedOnes 32 u.src1
    aux := unusedOnes 32 u.aux }

/-- The row of the opcode table that the opcode and the used fields of a command give. -/
def opRow (o : Op) : BitVec 192 × BitVec 192 :=
  (BitVec.ofNat 192 o.code, descriptorBits (mustBeZeroFields o.uses).pack)

/-- Every command, in the order of the table. -/
def allOps : List Op :=
  [.nop, .halt, .eadd, .esub, .eneg, .emul, .econj, .eemb, .esc3, .twid, .fft3, .ifft3, .mulmod, .cconv, .pmul]

theorem mem_allOps (o : Op) : o ∈ allOps := by
  cases o <;> decide

/-- The machine-readable table has the opcodes of R53 and, in its masks, the unused fields of R56. -/
theorem opcodeRows_eq_map : opcodeRows = allOps.map opRow := by
  decide

theorem exists_row_iff {P : BitVec 192 × BitVec 192 → Prop} : (∃ row ∈ opcodeRows, P row) ↔ ∃ o, P (opRow o) := by
  simp [opcodeRows_eq_map, mem_allOps]

theorem forall_row_iff {P : BitVec 192 × BitVec 192 → Prop} : (∀ row ∈ opcodeRows, P row) ↔ ∀ o, P (opRow o) := by
  simp [opcodeRows_eq_map, mem_allOps]

/-! ### Bits of a descriptor under a mask -/

theorem append_and_append_eq_zero_iff {v w : Nat} {x x' : BitVec v} {y y' : BitVec w} :
    (x ++ y) &&& (x' ++ y') = 0#(v + w) ↔ x &&& x' = 0#v ∧ y &&& y' = 0#w := by
  simp [BitVec.and_append, ← BitVec.toNat_inj]

theorem descriptorBits_and_eq_zero_iff {d m : Descriptor} : descriptorBits d &&& descriptorBits m = 0 ↔
    (d.w2 &&& m.w2 = 0 ∧ d.w1 &&& m.w1 = 0) ∧ d.w0 &&& m.w0 = 0 :=
  append_and_append_eq_zero_iff.trans (and_congr_left' append_and_append_eq_zero_iff)

section

variable {f g : Fields}

theorem pack_w0_and_eq_zero_iff : f.pack.w0 &&& g.pack.w0 = 0 ↔
    ((BitVec.ofNat 32 f.n &&& BitVec.ofNat 32 g.n = 0 ∧ BitVec.ofNat 16 f.rsv &&& BitVec.ofNat 16 g.rsv = 0) ∧
      BitVec.ofNat 8 f.k &&& BitVec.ofNat 8 g.k = 0) ∧ BitVec.ofNat 8 f.opc &&& BitVec.ofNat 8 g.opc = 0 :=
  append_and_append_eq_zero_iff.trans (and_congr_left'
    (append_and_append_eq_zero_iff.trans (and_congr_left' append_and_append_eq_zero_iff)))

theorem pack_w1_and_eq_zero_iff : f.pack.w1 &&& g.pack.w1 = 0 ↔
    BitVec.ofNat 32 f.src0 &&& BitVec.ofNat 32 g.src0 = 0 ∧ BitVec.ofNat 32 f.dst &&& BitVec.ofNat 32 g.dst = 0 :=
  append_and_append_eq_zero_iff

theorem pack_w2_and_eq_zero_iff : f.pack.w2 &&& g.pack.w2 = 0 ↔
    BitVec.ofNat 32 f.aux &&& BitVec.ofNat 32 g.aux = 0 ∧ BitVec.ofNat 32 f.src1 &&& BitVec.ofNat 32 g.src1 = 0 :=
  append_and_append_eq_zero_iff

theorem and_unusedOnes_eq_zero_iff {w v : Nat} (hv : v < 2 ^ w) {used : Bool} :
    BitVec.ofNat w v &&& BitVec.ofNat w (unusedOnes w used) = 0 ↔ used = true ∨ v = 0 := by
  cases used with
  | true => simp [unusedOnes]
  | false => simp [unusedOnes, ← BitVec.toNat_inj, Nat.mod_eq_of_lt hv]

/-- Nothing stands under the mask exactly where the decoder finds the reserved and unused fields clear. -/
theorem pack_and_mustBeZero_eq_zero_iff (hf : f.Fits) {u : Uses} :
    descriptorBits f.pack &&& descriptorBits (mustBeZeroFields u).pack = 0 ↔ reservedClear u f = true := by
  rw [descriptorBits_and_eq_zero_iff, pack_w0_and_eq_zero_iff, pack_w1_and_eq_zero_iff, pack_w2_and_eq_zero_iff,
    reservedClear_iff]
  simp only [mustBeZeroFields, and_unusedOnes_eq_zero_iff hf.k, and_unusedOnes_eq_zero_iff hf.rsv,
    and_unusedOnes_eq_zero_iff hf.n, and_unusedOnes_eq_zero_iff hf.dst, and_unusedOnes_eq_zero_iff hf.src0,
    and_unusedOnes_eq_zero_iff hf.src1, and_unusedOnes_eq_zero_iff hf.aux]
  constructor
  · rintro ⟨⟨⟨haux, hsrc1⟩, hsrc0, hdst⟩, ⟨⟨hn, hrsv⟩, hk⟩, -⟩
    exact ⟨hrsv.resolve_left Bool.false_ne_true, hn, hk, hdst, hsrc0, hsrc1, haux⟩
  · rintro ⟨hrsv, hn, hk, hdst, hsrc0, hsrc1, haux⟩
    exact ⟨⟨⟨haux, hsrc1⟩, hsrc0, hdst⟩, ⟨⟨hn, .inr hrsv⟩, hk⟩, BitVec.and_zero⟩

end

theorem opRow_mask_iff (d : Descriptor) (o : Op) :
    descriptorBits d &&& (opRow o).2 = 0 ↔ reservedClear o.uses d.fields = true := by
  rw [← pack_and_mustBeZero_eq_zero_iff d.fits_fields, d.pack_fields, opRow]

/-- The low byte of the descriptor's number is `OPC` (R50). -/
theorem descriptorBits_and_ff (d : Descriptor) : (descriptorBits d &&& 0xFF).toNat = d.fields.opc := by
  have hmask : (0xFF : BitVec 192).toNat = 2 ^ 8 - 1 := rfl
  simp only [BitVec.toNat_and, hmask, Nat.and_two_pow_sub_one_eq_mod, descriptorBits, toNat_append_add, Descriptor.fields,
    BitVec.extractLsb'_toNat, Nat.shiftRight_zero]
  omega

theorem opRow_match_iff (d : Descriptor) (o : Op) : descriptorBits d &&& 0xFF = (opRow o).1 ↔ o.code = d.fields.opc := by
  have hcode : o.code < 2 ^ 192 := by cases o <;> decide
  rw [← BitVec.toNat_inj, descriptorBits_and_ff, opRow, BitVec.toNat_ofNat, Nat.mod_eq_of_lt hcode, eq_comm]

/-! ### The decoder against the table (R52 to R56) -/

section

variable {d : Descriptor}

theorem decode_badOpcode_iff_no_row :
    decode d = .error .badOpcode ↔ ∀ row ∈ opcodeRows, descriptorBits d &&& 0xFF ≠ row.1 := by
  simp only [decode_eq_badOpcode_iff, forall_row_iff, ne_eq, opRow_match_iff]

theorem decode_badReserved_iff_row : decode d = .error .badReserved ↔
    ∃ row ∈ opcodeRows, descriptorBits d &&& 0xFF = row.1 ∧ descriptorBits d &&& row.2 ≠ 0 := by
  simp only [decode_eq_badReserved_iff, exists_row_iff, opRow_match_iff, ne_eq, opRow_mask_iff, Bool.not_eq_true]

theorem decode_ok_iff_row : (∃ i, decode d = .ok i) ↔
    ∃ row ∈ opcodeRows, descriptorBits d &&& 0xFF = row.1 ∧ descriptorBits d &&& row.2 = 0 := by
  simp only [decode_eq_ok_iff, exists_row_iff, opRow_match_iff, opRow_mask_iff]
  exact ⟨fun ⟨_, o, hcode, hclear, _⟩ => ⟨o, hcode, hclear⟩, fun ⟨o, hcode, hclear⟩ => ⟨_, o, hcode, hclear, rfl⟩⟩

end

/-- Settles O21: the decoder's three answers, each read off the rows of the table. -/
theorem decoderRejectsExactlyWhatTheTableDoes : Obligations.DecoderRejectsExactlyWhatTheTableDoes :=
  fun _ => ⟨decode_badOpcode_iff_no_row, decode_badReserved_iff_row, decode_ok_iff_row⟩

/-! ### The step on an illegal descriptor (R162, R163) -/

/-- A running engine takes the fault of the decoder's rejection, with `FINFO` the fetched `W0` (R52, R170). -/
theorem step_of_decode_error {s : State} {e : DecodeError} (hrun : s.status = .run) (hcp : s.cp.toNat < s.cfg.kmSize)
    (he : decode (s.kmAt s.cp.toNat) = .error e) :
    step s = .next (raiseFault (DecodeError.faultCode e) (s.kmAt s.cp.toNat).w0 s) := by
  obtain ⟨hstop, -⟩ | ⟨-, hpast, -⟩ | ⟨-, -, e', he', hf⟩ | ⟨-, -, i, hi, -⟩ := fetchDecode_cases s
  · exact absurd hrun hstop
  · omega
  · obtain rfl : e = e' := by simpa [he] using he'
    rw [step, hf]
  · simp [he] at hi

/-- Settles O26: the table says which rejection the decoder gives (O21), and the step takes its fault. -/
theorem illegalDescriptorsFault : Obligations.IllegalDescriptorsFault :=
  fun _ hrun hcp =>
    ⟨fun hnone => step_of_decode_error hrun hcp (decode_badOpcode_iff_no_row.2 hnone),
      fun hrow => step_of_decode_error hrun hcp (decode_badReserved_iff_row.2 hrow)⟩

end Sys2Proof.Machine

/-! ## O30 to O36: the element-wise commands complete

An element-wise command whose check passes ends as `CompletesWriting` says: the destination block is written, nothing else changes but
`CP`. That is proved once from what the effect of a command does; the two-source and the one-source commands then have one lemma each,
in which the ring function is a parameter, and every obligation names its function. The sources are read in the state before the
command (R47), so what is written does not depend on where the destination lies. -/

namespace Sys2Proof.Machine

/-- The command `i` completes from `s`: element `j` of the `n` XM units at `dst` becomes `v j`, `CP` advances (R153), and nothing else
of the state changes. -/
def CompletesWriting (i : Instr) (s : State) (dst n : Nat) (v : Nat → Elt) : Prop :=
  ∃ t, exec i s = .next t ∧ t = { s with xm := t.xm, cp := s.cp + 1 } ∧
    (∀ j, j < n → t.xmAt (dst + j) = v j) ∧ (∀ e, ¬ (dst ≤ e ∧ e < dst + n) → t.xmAt e = s.xmAt e)

section

variable {i : Instr} {s : State} {w0 : Word} {dst src0 src1 n : Nat}

/-- A command completes where its check passes and its effect writes the block and changes XM alone. -/
theorem CompletesWriting.of_effect {check : Option FaultCode} {effect : State → State} {v : Nat → Elt}
    (hexec : exec i s = runCommand w0 check effect s) (hpass : check = none)
    (hframe : effect s = { s with xm := (effect s).xm })
    (hin : ∀ j, j < n → (effect s).xmAt (dst + j) = v j)
    (hout : ∀ e, ¬ (dst ≤ e ∧ e < dst + n) → (effect s).xmAt e = s.xmAt e) :
    CompletesWriting i s dst n v := by
  refine ⟨(effect s).advance, ?_, ?_, hin, hout⟩
  · rw [hexec, hpass, runCommand_none]
  · exact congrArg State.advance hframe

/-- The commands with two XM sources (R78, R79, R81). -/
theorem CompletesWriting.of_mapXm2 {f : Elt → Elt → Elt}
    (hexec : exec i s = runCommand w0 (ewCheck2 s dst src0 src1 n) (mapXm2 f dst src0 src1 n) s)
    (hn : 1 ≤ n) (hdst : dst + n ≤ s.cfg.xmSize) (hsrc0 : src0 + n ≤ s.cfg.xmSize) (hsrc1 : src1 + n ≤ s.cfg.xmSize)
    (h0 : SameOrApart dst src0 n) (h1 : SameOrApart dst src1 n) :
    CompletesWriting i s dst n fun j => f (s.xmAt (src0 + j)) (s.xmAt (src1 + j)) :=
  .of_effect hexec (ewCheck2_eq_none.2 ⟨Nat.one_le_iff_ne_zero.1 hn, ⟨hdst, hsrc0, hsrc1⟩, h0, h1⟩)
    (mapXm2_frame s f dst src0 src1 n) (fun _ hj => mapXm2_xmAt_in s f dst src0 src1 hj)
    (fun _ he => mapXm2_xmAt_out s f dst src0 src1 n he)

/-- The commands with one XM source (R80, R82, R84). -/
theorem CompletesWriting.of_mapXm1 {f : Elt → Elt}
    (hexec : exec i s = runCommand w0 (ewCheck1 s dst src0 n) (mapXm1 f dst src0 n) s)
    (hn : 1 ≤ n) (hdst : dst + n ≤ s.cfg.xmSize) (hsrc0 : src0 + n ≤ s.cfg.xmSize) (h0 : SameOrApart dst src0 n) :
    CompletesWriting i s dst n fun j => f (s.xmAt (src0 + j)) :=
  .of_effect hexec (ewCheck1_eq_none.2 ⟨Nat.one_le_iff_ne_zero.1 hn, ⟨hdst, hsrc0⟩, h0⟩)
    (mapXm1_frame s f dst src0 n) (fun _ hj => mapXm1_xmAt_in s f dst src0 hj)
    (fun _ he => mapXm1_xmAt_out s f dst src0 n he)

end

/-! ### Embedding and scaling -/

/-- `EEMB` as a check and an effect (R83). -/
theorem exec_eemb (s : State) (xd cs0 len : Nat) : exec (.eemb xd cs0 len) s =
    runCommand (encode (.eemb xd cs0 len)).w0 (embedCheck s xd cs0 len)
      (fun s => s.writeXm xd ((s.readCm cs0 len).map remb)) s := rfl

/-- Element `j` of the embedded block is word `j` of the CM source with `b = 0` (R75, R83). -/
theorem State.xmAt_writeXm_embed (s : State) (dst src0 : Nat) {n j : Nat} (h : j < n) :
    (s.writeXm dst ((s.readCm src0 n).map remb)).xmAt (dst + j) = remb (s.cmAt (src0 + j)) := by
  rw [State.xmAt_writeXm_in _ _ _ (by simpa using h), List.getElem_map, State.readCm_getElem]

/-- The `k`-fold product of INV3 is its power in the ring of words (R76). -/
theorem inv3Pow_eq_pow (k : Nat) : inv3Pow k = inv3 ^ k := by
  induction k with
  | zero => rfl
  | succ k ih => rw [inv3Pow, ih, pow_succ]

/-- Scaling in terms of the power. -/
theorem rsc3_eq (u : Elt) (k : Nat) : rsc3 u k = ⟨u.a * inv3 ^ k, u.b * inv3 ^ k⟩ := by
  rw [rsc3, inv3Pow_eq_pow]

/-- Scaling by INV3^0 is the identity, which makes `ESC3` with `K = 0` a copy (R60). -/
@[simp] theorem rsc3_zero (u : Elt) : rsc3 u 0 = u := by
  simp [rsc3_eq]

/-! ### The commands -/

/-- Settles O30: `EADD` is the two-source command of `radd` (R70). -/
theorem eaddAddsElementwise : Obligations.EaddAddsElementwise :=
  fun s xd xs0 xs1 len => CompletesWriting.of_mapXm2 (i := .eadd xd xs0 xs1 len) (s := s) (f := radd) rfl

/-- Settles O31: `ESUB` is the two-source command of `rsub` (R71). -/
theorem esubSubtractsElementwise : Obligations.EsubSubtractsElementwise :=
  fun s xd xs0 xs1 len => CompletesWriting.of_mapXm2 (i := .esub xd xs0 xs1 len) (s := s) (f := rsub) rfl

/-- Settles O32: `EMUL` is the two-source command of `rmul` (R73). -/
theorem emulMultipliesElementwise : Obligations.EmulMultipliesElementwise :=
  fun s xd xs0 xs1 len => CompletesWriting.of_mapXm2 (i := .emul xd xs0 xs1 len) (s := s) (f := rmul) rfl

/-- Settles O33: `ENEG` is the one-source command of `rneg` (R72). -/
theorem enegNegatesElementwise : Obligations.EnegNegatesElementwise :=
  fun s xd xs0 len => CompletesWriting.of_mapXm1 (i := .eneg xd xs0 len) (s := s) (f := rneg) rfl

/-- Settles O34: `ECONJ` is the one-source command of `rconj` (R74). -/
theorem econjConjugatesElementwise : Obligations.EconjConjugatesElementwise :=
  fun s xd xs0 len => CompletesWriting.of_mapXm1 (i := .econj xd xs0 len) (s := s) (f := rconj) rfl

/-- Settles O35: the source is CM, so the check has no overlap to look at, and the block written is the embedded words. -/
theorem eembEmbedsWords : Obligations.EembEmbedsWords := by
  intro s xd cs0 len hlen hdst hsrc
  have hpass : embedCheck s xd cs0 len = none := embedCheck_eq_none.2 ⟨Nat.one_le_iff_ne_zero.1 hlen, hdst, hsrc⟩
  exact CompletesWriting.of_effect (exec_eemb s xd cs0 len) hpass rfl
    (fun _ hj => s.xmAt_writeXm_embed xd cs0 hj) (fun _ he => s.xmAt_writeXm_out xd _ (by simpa using he))

/-- Settles O36: `ESC3` is the one-source command of `rsc3 · k`, the power is that of the ring of words, and for `K = 0` it is the
identity. -/
theorem esc3ScalesElementwise : Obligations.Esc3ScalesElementwise := by
  intro s xd xs0 len k hlen hdst hsrc hclass
  obtain ⟨t, hexec, hframe, hin, hout⟩ :=
    CompletesWriting.of_mapXm1 (i := .esc3 xd xs0 len k) (f := fun u => rsc3 u k) rfl hlen hdst hsrc hclass
  refine ⟨t, hexec, hframe, fun i hi => (hin i hi).trans (rsc3_eq _ k), ?_, hout⟩
  rintro rfl i hi
  exact (hin i hi).trans (rsc3_zero _)

end Sys2Proof.Machine

/-! ## O37 and O5: the twiddle

What the printed loop of R85 gives is said once, coefficient by coefficient (`twiddle_at`). `TWID` writes these coefficients into the
destination. A shift by a whole multiple `q` of the length moves no coefficient and multiplies each by `ω^q`, which for `q = 0` and
`q = 3` is the identity. -/

namespace Sys2Proof.Machine

/-! ### The twiddle by coefficients -/

/-- Blocks of one length with the same coefficients are equal. -/
theorem Block.ext_at {p p' : Block} (hlen : p.length = p'.length) (hat : ∀ j, j < p.length → p.at j = p'.at j) : p = p' := by
  refine List.ext_getElem hlen fun j hj hj' => ?_
  simpa only [Block.at, List.getD_eq_getElem _ _ hj, List.getD_eq_getElem _ _ hj'] using hat j hj

/-- Coefficient `j` of a twiddle (R85). -/
theorem twiddle_at (p : Block) (t : Nat) {j : Nat} (hj : j < p.length) :
    (twiddle p t).at j =
      if t % p.length ≤ j then rwpow (p.at (j - t % p.length)) (t / p.length)
      else rwpow (p.at (j + p.length - t % p.length)) (t / p.length + 1) := by
  rw [Block.at, List.getD_eq_getElem _ _ (by simpa using hj)]
  simp only [twiddle, List.getElem_map, List.getElem_range]

theorem bwpow_at (p : Block) (q : Nat) {j : Nat} (hj : j < p.length) : (bwpow p q).at j = rwpow (p.at j) q := by
  rw [Block.at, Block.at, List.getD_eq_getElem _ _ (by simpa using hj), List.getD_eq_getElem _ _ hj]
  simp only [bwpow, List.getElem_map]

/-- A shift by a whole multiple of the length rotates nothing (R90). -/
theorem twiddle_mul_length (p : Block) (q : Nat) : twiddle p (q * p.length) = bwpow p q := by
  refine Block.ext_at (by simp) fun j hj => ?_
  rw [twiddle_length] at hj
  have hpos : 0 < p.length := Nat.zero_lt_of_lt hj
  rw [twiddle_at p _ hj, bwpow_at p q hj, Nat.mul_mod_left, Nat.mul_div_cancel q hpos, if_pos (Nat.zero_le j), Nat.sub_zero]

/-! ### `ω³ = 1` -/

/-- The exponent of ω counts modulo 3 (R77). -/
theorem rwpow_of_mod_three_eq_zero (u : Elt) {q : Nat} (hq : q % 3 = 0) : rwpow u q = u := by
  simp only [rwpow, hq]

theorem bwpow_of_mod_three_eq_zero (p : Block) {q : Nat} (hq : q % 3 = 0) : bwpow p q = p :=
  (List.map_congr_left fun u _ => rwpow_of_mod_three_eq_zero u hq).trans p.map_id

/-! ### The command -/

/-- `TWID` as a check and an effect (R88). -/
theorem exec_twid_eq_runCommand (s : State) (xd xs0 m t : Nat) : exec (.twid xd xs0 m t) s =
    runCommand (encode (.twid xd xs0 m t)).w0 (twiddleCheck s xd xs0 m t)
      (fun s => s.writeXm xd (twiddle (s.readXm xs0 m) t)) s := rfl

/-- Element `j` of the destination in terms of the units of the source, which are read before anything is written (R47, R85). -/
theorem State.xmAt_writeXm_twiddle (s : State) (dst src0 t : Nat) {m j : Nat} (hj : j < m) :
    (s.writeXm dst (twiddle (s.readXm src0 m) t)).xmAt (dst + j) =
      if t % m ≤ j then rwpow (s.xmAt (src0 + (j - t % m))) (t / m)
      else rwpow (s.xmAt (src0 + (j + m - t % m))) (t / m + 1) := by
  rw [State.xmAt_writeXm_at s (by simpa using hj), twiddle_at _ _ (by simpa using hj), State.readXm_length]
  split
  case isTrue hle => rw [State.readXm_at s (by omega)]
  case isFalse hlt => rw [State.readXm_at s (by omega)]

/-- Settles O37: the hypotheses are what the check of `TWID` passes, and the block written is the twiddle of the source. -/
theorem twidRotatesTheBuffer : Obligations.TwidRotatesTheBuffer := by
  intro s xd xs0 a sh hsh hdst hsrc hapart
  have hpass : twiddleCheck s xd xs0 (3 ^ a) sh = none :=
    twiddleCheck_eq_none.2 ⟨⟨isPow3_pow a, hsh⟩, ⟨hdst, hsrc⟩, hapart⟩
  exact CompletesWriting.of_effect (exec_twid_eq_runCommand s xd xs0 (3 ^ a) sh) hpass rfl
    (fun _ hj => s.xmAt_writeXm_twiddle xd xs0 sh hj) (fun _ he => s.xmAt_writeXm_out xd _ (by simpa using he))

/-- Settles O5: both shifts are whole multiples of the length, by 0 and by 3, and `ω⁰ = ω³ = 1`. -/
theorem twiddleIdentityAtBothEnds : Obligations.TwiddleIdentityAtBothEnds := by
  intro p _
  have hends : ∀ q, q % 3 = 0 → twiddle p (q * p.length) = p := fun q hq =>
    (twiddle_mul_length p q).trans (bwpow_of_mod_three_eq_zero p hq)
  exact ⟨by simpa using hends 0 rfl, hends 3 rfl⟩

end Sys2Proof.Machine

/-! ## O38 and O39: the transforms complete in place

A command that writes one XM block and then clobbers its arena ends as `CompletesClobbering` says, which is proved once from the write
(R34) and the clobber (R46). Both transforms are such a command: their check is the hypotheses of the obligations, and what they write
is the transformed blocks, joined. That these fill the buffer is all that is asked of the transform (`KeepsShape`), so that one lemma
serves both. -/

namespace Sys2Proof.Machine

/-- The command `i` completes from `s`: element `j` of the `n` XM units at `dst` becomes `v j`, the `need` units of the arena clobber
range hold ANY of a fresh draw (R46), `CP` advances (R153), and nothing else changes but the draw counter, which does not fall. -/
def CompletesClobbering (i : Instr) (s : State) (dst n need : Nat) (v : Nat → Elt) : Prop :=
  ∃ t, exec i s = .next t ∧ t = { s with xm := t.xm, cp := s.cp + 1, draws := t.draws } ∧ s.draws ≤ t.draws ∧
    (∀ j, j < n → t.xmAt (dst + j) = v j) ∧ (∀ e, InArena s need e → t.xm.get e = .any s.draws) ∧
    (∀ e, ¬ (dst ≤ e ∧ e < dst + n) → ¬ InArena s need e → t.xmAt e = s.xmAt e)

/-- The command `i` completes from `s` with the effect of the transform `f` on the `r` blocks of `m` elements at `dst` (R97, R102). -/
def TransformsInPlace (f : List Block → Nat → List Block) (i : Instr) (s : State) (dst r m : Nat) : Prop :=
  ∃ t, exec i s = .next t ∧ t = { s with xm := t.xm, cp := s.cp + 1, draws := t.draws } ∧ s.draws ≤ t.draws ∧
    (∀ j k, j < r → k < m → t.xmAt (dst + j * m + k) = (blockAt (f (blocksAt s dst r m) m) j).at k) ∧
    (∀ e, InArena s (needFft r m) e → t.xm.get e = .any s.draws) ∧
    (∀ e, ¬ (dst ≤ e ∧ e < dst + r * m) → ¬ InArena s (needFft r m) e → t.xmAt e = s.xmAt e)

section

variable {i : Instr} {s : State} {w0 : Word} {dst n need r m : Nat} {f : List Block → Nat → List Block}

/-- An operand clear of the arena has no unit in the clobber range. -/
theorem not_inArena_of_arenaClear (hclear : ArenaClear s need dst n) {j : Nat} (hj : j < n) :
    ¬ InArena s need (dst + j) := by
  rintro ⟨hlow, hhigh⟩
  exact hclear (by omega) ⟨by omega, by omega⟩

/-- A command completes where its check passes and its effect is the write of a block clear of the arena, then the clobber. -/
theorem CompletesClobbering.of_effect {check : Option FaultCode} {effect : State → State} {vs : Block}
    (hexec : exec i s = runCommand w0 check effect s) (hpass : check = none)
    (heffect : effect s = (s.writeXm dst vs).clobberArena need) (hlen : vs.length = n)
    (hclear : ArenaClear s need dst n) (hdraws : 1 ≤ s.draws) :
    CompletesClobbering i s dst n need vs.at := by
  subst hlen
  obtain ⟨xm, draws, hframe, hle⟩ := (s.writeXm dst vs).clobberArena_frame need
  refine ⟨((s.writeXm dst vs).clobberArena need).advance, ?_, ?_, ?_, ?_, ?_, ?_⟩
  · rw [hexec, hpass, runCommand_none, heffect]
  · rw [hframe]; rfl
  · rw [hframe]; exact hle
  · exact fun j hj =>
      ((s.writeXm dst vs).xmAt_clobberArena_out (not_inArena_of_arenaClear hclear hj)).trans (s.xmAt_writeXm_at hj)
  · exact fun e he => (s.writeXm dst vs).get_clobberArena_in hdraws he
  · exact fun e hout harena =>
      ((s.writeXm dst vs).xmAt_clobberArena_out harena).trans (s.xmAt_writeXm_out dst vs hout)

/-- The effect of a transform command in terms of the blocks that the buffer holds before it. -/
theorem transformXm_eq (f : List Block → Nat → List Block) (s : State) (dst r m : Nat) : transformXm f dst r m s =
    (s.writeXm dst (f (blocksAt s dst r m) m).flatten).clobberArena (needFft r m) := by
  rw [transformXm, blocksOf_readXm]

/-- A transform command completes in place where its check passes. -/
theorem TransformsInPlace.of_check (hf : KeepsShape f)
    (hexec : exec i s = runCommand w0 (transformCheck s dst r m) (transformXm f dst r m) s)
    (hpass : transformCheck s dst r m = none) (hdraws : 1 ≤ s.draws) : TransformsInPlace f i s dst r m := by
  obtain ⟨⟨hr, -, -⟩, -, -, hclear⟩ := transformCheck_eq_none.1 hpass
  have hshape : (f (blocksAt s dst r m) m).length = r ∧ AllLen m (f (blocksAt s dst r m) m) := by
    rw [← blocksOf_readXm]
    simpa using hf (by rwa [blocksOf_length]) (allLen_blocksOf (s.readXm_length dst (r * m)))
  obtain ⟨hcount, hblocks⟩ := hshape
  have hlen : (f (blocksAt s dst r m) m).flatten.length = r * m := by rw [hblocks.flatten_length, hcount]
  obtain ⟨t, hnext, hframe, hle, hin, harena, hout⟩ :=
    CompletesClobbering.of_effect hexec hpass (transformXm_eq f s dst r m) hlen hclear hdraws
  refine ⟨t, hnext, hframe, hle, fun j k hj hk => ?_, harena, hout⟩
  have hlt : j * m + k < r * m := Nat.mul_comm m j ▸ Nat.mul_add_lt_mul_of_lt_of_lt hj hk
  calc t.xmAt (dst + j * m + k) = t.xmAt (dst + (j * m + k)) := by rw [Nat.add_assoc]
    _ = Block.at (f (blocksAt s dst r m) m).flatten (j * m + k) := hin _ hlt
    _ = (blockAt (f (blocksAt s dst r m) m) j).at k := flatten_at hblocks (by rwa [hcount]) hk

end

/-- The check of the transforms passes on what the obligations assume. -/
theorem transformCheck_pow_eq_none {s : State} {dst L a : Nat} (hr : 3 ^ L ≤ 3 * 3 ^ a)
    (hdst : dst + 3 ^ L * 3 ^ a ≤ s.cfg.xmSize) (hgranted : ArenaGranted s (needFft (3 ^ L) (3 ^ a)))
    (hclear : ArenaClear s (needFft (3 ^ L) (3 ^ a)) dst (3 ^ L * 3 ^ a)) :
    transformCheck s dst (3 ^ L) (3 ^ a) = none :=
  transformCheck_eq_none.2 ⟨⟨isPow3_pow L, isPow3_pow a, hr⟩, hdst, hgranted, hclear⟩

/-- Settles O38: `FFT3` is the transform command of `fft3`, which keeps the number and the length of the blocks. -/
theorem fft3TransformsInPlace : Obligations.Fft3TransformsInPlace :=
  fun s xd L a hr hdst hgranted hclear hdraws =>
    TransformsInPlace.of_check (i := .fft3 xd (3 ^ L) (3 ^ a)) (s := s) fft3_shape rfl
      (transformCheck_pow_eq_none hr hdst hgranted hclear) hdraws

/-- Settles O39: `IFFT3` is the transform command of `ifft3`, which keeps the number and the length of the blocks. -/
theorem ifft3TransformsInPlace : Obligations.Ifft3TransformsInPlace :=
  fun s xd L a hr hdst hgranted hclear hdraws =>
    TransformsInPlace.of_check (i := .ifft3 xd (3 ^ L) (3 ^ a)) (s := s) ifft3_shape rfl
      (transformCheck_pow_eq_none hr hdst hgranted hclear) hdraws

end Sys2Proof.Machine

/-! ## O18: the arena needs

The rules for `NEED_FFT` and `NEED_CC` are the definitions. `NEED_MUL` is defined with the exponent of the length as fuel, while its rule
goes on with the fuel that is left: on `3^k` any fuel from `k` up gives the same value, because above the base case the exponent of the
split is at most `k - 1`. -/

namespace Sys2Proof.Machine

theorem needMulFuel_of_le_baseMax (f : Nat) {n : Nat} (hn : n ≤ baseMax) : needMulFuel f n = 0 := by
  cases f with
  | zero => rfl
  | succ f => exact if_pos hn

theorem needMulFuel_succ_of_baseMax_lt (f : Nat) {n : Nat} (hn : baseMax < n) :
    needMulFuel (f + 1) n = 4 * n + 3 * mUp n + needMulFuel f (mUp n) :=
  if_neg (Nat.not_le_of_gt hn)

/-- `27 = 3^3` is the longest base case. -/
theorem four_le_of_baseMax_lt_pow {k : Nat} (hk : baseMax < 3 ^ k) : 4 ≤ k :=
  (Nat.pow_lt_pow_iff_right (by decide)).1 (show 3 ^ 3 < 3 ^ k from hk)

/-- Fuel beyond the exponent changes nothing. -/
theorem needMulFuel_succ_pow {f k : Nat} (hk : k ≤ f) : needMulFuel (f + 1) (3 ^ k) = needMulFuel f (3 ^ k) := by
  induction f generalizing k with
  | zero =>
    obtain rfl : k = 0 := Nat.le_zero.1 hk
    rfl
  | succ f ih =>
    obtain hbase | hlong := le_or_gt (3 ^ k) baseMax
    · rw [needMulFuel_of_le_baseMax _ hbase, needMulFuel_of_le_baseMax _ hbase]
    · have hexp : (k + 1) / 2 ≤ f := by
        have := four_le_of_baseMax_lt_pow hlong
        omega
      rw [needMulFuel_succ_of_baseMax_lt _ hlong, needMulFuel_succ_of_baseMax_lt _ hlong, mUp_pow, ih hexp]

/-- Any fuel from the exponent up gives `NEED_MUL`. -/
theorem needMulFuel_pow {f k : Nat} (hk : k ≤ f) : needMulFuel f (3 ^ k) = needMul (3 ^ k) := by
  rw [needMul, log3_pow]
  induction f, hk using Nat.le_induction with
  | base => rfl
  | succ f hk ih => rw [needMulFuel_succ_pow hk, ih]

/-- The recursive case of R118. -/
theorem needMul_pow {k : Nat} (hk : baseMax < 3 ^ k) :
    needMul (3 ^ k) = 4 * 3 ^ k + 3 * mUp (3 ^ k) + needMul (mUp (3 ^ k)) := by
  have hfour := four_le_of_baseMax_lt_pow hk
  obtain ⟨f, rfl⟩ : ∃ f, k = f + 1 := ⟨k - 1, by omega⟩
  have hexp : (f + 1 + 1) / 2 ≤ f := by omega
  rw [needMul, log3_pow, needMulFuel_succ_of_baseMax_lt f hk, mUp_pow, needMulFuel_pow hexp]

/-- Settles O18: the recursive rule is `needMul_pow`, the other rules are the definitions, and the tables are their values. -/
theorem arenaNeedsAreAsTheRulesSay : Obligations.ArenaNeedsAreAsTheRulesSay :=
  ⟨fun _ _ => rfl, fun _ hn => needMulFuel_of_le_baseMax _ hn, fun _ hk => needMul_pow hk, fun _ => rfl, by decide, by decide⟩

end Sys2Proof.Machine

/-! ## O40: the multiplier completes

`MULMOD` writes one XM block and then clobbers its arena, so it ends as `CompletesClobbering` says. Its check is the hypotheses of the
obligation. The block it writes is computed from the sources before anything is written (R47), and it fills the destination because a
product modulo `x^n − ω` has as many coefficients as its operands. -/

namespace Sys2Proof.Machine

/-- `MULMOD` as a check and an effect (R120). -/
theorem exec_mulmod_eq_runCommand (s : State) (xd xs0 xs1 n : Nat) : exec (.mulmod xd xs0 xs1 n) s =
    runCommand (encode (.mulmod xd xs0 xs1 n)).w0 (mulmodCheck s xd xs0 xs1 n)
      (fun s => (s.writeXm xd (mulmod (s.readXm xs0 n) (s.readXm xs1 n))).clobberArena (needMul n)) s := rfl

/-- The product of two source buffers is as long as a buffer. -/
theorem mulmod_readXm_length (s : State) (src0 src1 : Nat) {n : Nat} (hn : isPow3 n = true) :
    (mulmod (s.readXm src0 n) (s.readXm src1 n)).length = n := by
  rw [mulmod_length _ (by rwa [s.readXm_length]), s.readXm_length]

/-- `MULMOD` completes with the product in its destination where its check passes. -/
theorem CompletesClobbering.of_mulmodCheck {s : State} {dst src0 src1 n : Nat}
    (hpass : mulmodCheck s dst src0 src1 n = none) (hdraws : 1 ≤ s.draws) :
    CompletesClobbering (.mulmod dst src0 src1 n) s dst n (needMul n)
      (mulmod (s.readXm src0 n) (s.readXm src1 n)).at := by
  obtain ⟨hn, -, -, -, -, hclear, -⟩ := mulmodCheck_eq_none.1 hpass
  exact .of_effect (exec_mulmod_eq_runCommand s dst src0 src1 n) hpass rfl (mulmod_readXm_length s src0 src1 hn) hclear hdraws

/-- Settles O40: the hypotheses are what the check of `MULMOD` passes. -/
theorem mulmodWritesTheProduct : Obligations.MulmodWritesTheProduct := by
  intro s xd xs0 xs1 k hdst hsrc0 hsrc1 hgranted hapart0 hapart1 hclear hclear0 hclear1 hdraws
  have hpass : mulmodCheck s xd xs0 xs1 (3 ^ k) = none :=
    mulmodCheck_eq_none.2
      ⟨isPow3_pow k, ⟨hdst, hsrc0, hsrc1⟩, hgranted, hapart0, hapart1, hclear, hclear0, hclear1⟩
  exact CompletesClobbering.of_mulmodCheck hpass hdraws

end Sys2Proof.Machine

/-! ## O41 and O42: the convolutions complete

Both commands write words in CM and then clobber their arena in XM, so they end as `CompletesConvolving` says. The two memories do not
meet: the write leaves XM as it was and the clobber leaves CM as it was, so that no buffer has to be clear of the arena. The words
written are computed from the state before (R47), so that the buffers may overlap (class FREE); how many there are is the rule for the
length of the result, and their values do not matter. -/

namespace Sys2Proof.Machine

/-- The command `i` completes from `s`: word `j` of the `n` CM units at `dst` becomes `v j`, the `need` units of the arena clobber range
in XM hold ANY of a fresh draw (R46), `CP` advances (R153), and nothing else changes but the draw counter, which does not fall. -/
def CompletesConvolving (i : Instr) (s : State) (dst n need : Nat) (v : Nat → Word) : Prop :=
  ∃ t, exec i s = .next t ∧ t = { s with xm := t.xm, cm := t.cm, cp := s.cp + 1, draws := t.draws } ∧ s.draws ≤ t.draws ∧
    (∀ j, j < n → t.cmAt (dst + j) = v j) ∧ (∀ w, ¬ (dst ≤ w ∧ w < dst + n) → t.cmAt w = s.cmAt w) ∧
    (∀ e, InArena s need e → t.xm.get e = .any s.draws) ∧ (∀ e, ¬ InArena s need e → t.xmAt e = s.xmAt e)

/-- A command completes where its check passes and its effect is the write of words in CM, then the clobber. -/
theorem CompletesConvolving.of_effect {i : Instr} {s : State} {w0 : Word} {check : Option FaultCode} {effect : State → State}
    {dst n need : Nat} {vs : List Word} (hexec : exec i s = runCommand w0 check effect s) (hpass : check = none)
    (heffect : effect s = (s.writeCm dst vs).clobberArena need) (hlen : vs.length = n) (hdraws : 1 ≤ s.draws) :
    CompletesConvolving i s dst n need (wordAt vs) := by
  subst hlen
  obtain ⟨xm, draws, hframe, hle⟩ := (s.writeCm dst vs).clobberArena_frame need
  refine ⟨((s.writeCm dst vs).clobberArena need).advance, ?_, ?_, ?_, ?_, ?_, ?_, ?_⟩
  · rw [hexec, hpass, runCommand_none, heffect]
  · rw [hframe]; rfl
  · rw [hframe]; exact hle
  · exact fun j hj => ((s.writeCm dst vs).clobberArena_cmAt need (dst + j)).trans (s.cmAt_writeCm_wordAt hj)
  · exact fun w hout => ((s.writeCm dst vs).clobberArena_cmAt need w).trans (s.cmAt_writeCm_out dst vs hout)
  · exact fun e he => (s.writeCm dst vs).get_clobberArena_in hdraws he
  · exact fun e hout => (s.writeCm dst vs).xmAt_clobberArena_out hout

/-- `CCONV` as a check and an effect (R138). -/
theorem exec_cconv_eq_runCommand (s : State) (cd cs0 cs1 n : Nat) : exec (.cconv cd cs0 cs1 n) s =
    runCommand (encode (.cconv cd cs0 cs1 n)).w0 (cconvCheck s cd cs0 cs1 n)
      (fun s => (s.writeCm cd (cconv (s.readCm cs0 n) (s.readCm cs1 n))).clobberArena (needCc n)) s := rfl

/-- `PMUL` as a check and an effect (R142). -/
theorem exec_pmul_eq_runCommand (s : State) (cd cs0 la cs1 lb : Nat) : exec (.pmul cd cs0 la cs1 lb) s =
    runCommand (encode (.pmul cd cs0 la cs1 lb)).w0 (pmulCheck s cd cs0 la cs1 lb)
      (fun s => (s.writeCm cd (pmul (s.readCm cs0 la) (s.readCm cs1 lb))).clobberArena
        (needCc (pow3Ceil (la + lb - 1)))) s := rfl

/-- The convolution of two source buffers is as long as a buffer. -/
theorem cconv_readCm_length (s : State) (src0 src1 : Nat) {n : Nat} (hn : isPow3 n = true) :
    (cconv (s.readCm src0 n) (s.readCm src1 n)).length = n := by
  rw [cconv_length _ (by rwa [s.readCm_length]), s.readCm_length]

/-- The product of two source buffers fills the destination and no word behind it. -/
theorem pmul_readCm_length (s : State) (src0 la src1 : Nat) {lb : Nat} (hlb : lb ≠ 0) :
    (pmul (s.readCm src0 la) (s.readCm src1 lb)).length = la + lb - 1 := by
  rw [pmul_length (by rwa [s.readCm_length]), s.readCm_length, s.readCm_length]

/-- Settles O41: the hypotheses are what the check of `CCONV` passes, which asks for no buffer apart from another. -/
theorem cconvWritesTheConvolution : Obligations.CconvWritesTheConvolution := by
  intro s cd cs0 cs1 k hdst hsrc0 hsrc1 hgranted hdraws
  have hpass : cconvCheck s cd cs0 cs1 (3 ^ k) = none :=
    cconvCheck_eq_none.2 ⟨isPow3_pow k, ⟨hdst, hsrc0, hsrc1⟩, hgranted⟩
  exact CompletesConvolving.of_effect (exec_cconv_eq_runCommand s cd cs0 cs1 (3 ^ k)) hpass rfl
    (cconv_readCm_length s cs0 cs1 (isPow3_pow k)) hdraws

/-- Settles O42: the hypotheses are what the check of `PMUL` passes, which asks for no buffer apart from another. -/
theorem pmulWritesTheProduct : Obligations.PmulWritesTheProduct := by
  intro s cd cs0 la cs1 lb hla hlb hdst hsrc0 hsrc1 hgranted hdraws
  have hla0 : la ≠ 0 := Nat.one_le_iff_ne_zero.1 hla
  have hlb0 : lb ≠ 0 := Nat.one_le_iff_ne_zero.1 hlb
  have hpass : pmulCheck s cd cs0 la cs1 lb = none :=
    pmulCheck_eq_none.2 ⟨⟨hla0, hlb0⟩, ⟨hdst, hsrc0, hsrc1⟩, hgranted⟩
  exact CompletesConvolving.of_effect (exec_pmul_eq_runCommand s cd cs0 la cs1 lb) hpass rfl
    (pmul_readCm_length s cs0 la cs1 hlb0) hdraws

end Sys2Proof.Machine

/-! ## O23, O27 and O56: a step of a running engine, and the end of every run

A command either takes a fault or completes, and a completed command has advanced `CP` by 1 (`Completed`). A step of a running engine
completes only where it fetched from inside KM, so `CP` does not wrap and comes nearer to `KM_SIZE`, where the next fetch faults. -/

namespace Sys2Proof.Machine

section

variable {s t : State} {i : Instr}

/-- A running engine performs the command that the descriptor at `CP` decodes to (R150). -/
theorem step_of_decode_ok (hrun : s.status = .run) (hcp : s.cp.toNat < s.cfg.kmSize)
    (hi : decode (s.kmAt s.cp.toNat) = .ok i) : step s = exec i s := by
  obtain ⟨hstop, -⟩ | ⟨-, hpast, -⟩ | ⟨-, -, e, he, -⟩ | ⟨-, -, i', hi', hf⟩ := fetchDecode_cases s
  · exact absurd hrun hstop
  · omega
  · simp [hi] at he
  · obtain rfl : i = i' := by simpa [hi] using hi'
    rw [step, hf]

/-! ### Every step has a next state -/

/-- Every command is a check and an effect, and either outcome of its check goes on to a next state. -/
theorem exec_next (i : Instr) (s : State) : ∃ t, exec i s = .next t := by
  cases i <;>
    simp only [exec, execNop, execHalt, execEadd, execEsub, execEneg, execEmul, execEconj, execEemb, execEsc3, execTwid,
      execFft3, execIfft3, execMulmod, execCconv, execPmul, runCommand_next]

/-- In each thing that the fetch can find the step goes on to a next state (R150). -/
theorem step_next (s : State) : ∃ t, step s = .next t := by
  unfold step
  cases fetchDecode s with
  | stopped => exact ⟨s, rfl⟩
  | trapped t => exact ⟨t, rfl⟩
  | command i => exact exec_next i s

/-! ### A command takes a fault or completes -/

/-- What every completed command has done to the registers: `CP` is advanced, the fault registers stay, and `STATE` stays or, by `HALT`,
is `HALTED` (R152, R153). -/
structure Completed (s t : State) : Prop where
  cfg : t.cfg = s.cfg
  status : t.status = s.status ∨ t.status = .halted
  cp : t.cp = s.cp + 1
  fcode : t.fcode = s.fcode
  fcp : t.fcp = s.fcp
  finfo : t.finfo = s.finfo

theorem ExecResult.trapped_or_completed (h : ExecResult s i t) : (∃ c w0, t = raiseFault c w0 s) ∨ Completed s t := by
  cases h with
  | trapped c => exact .inl ⟨c, _, rfl⟩
  | nop | wroteXm | wroteCm => exact .inr ⟨rfl, .inl rfl, rfl, rfl, rfl, rfl⟩
  | halt => exact .inr ⟨rfl, .inr rfl, rfl, rfl, rfl, rfl⟩

theorem Completed.run_or_halted (h : Completed s t) (hrun : s.status = .run) : t.status = .run ∨ t.status = .halted :=
  hrun ▸ h.status

/-- Inside KM the advance of `CP` does not wrap, since `KM_SIZE` is at most `2^32 − 1` (R4). -/
theorem Completed.cp_toNat (h : Completed s t) (hcfg : s.cfg.wf = true) (hcp : s.cp.toNat < s.cfg.kmSize) :
    t.cp.toNat = s.cp.toNat + 1 := by
  have hsize : s.cfg.kmSize ≤ 2 ^ 32 - 1 := by
    simp only [Config.wf, Bool.and_eq_true, decide_eq_true_eq] at hcfg
    exact hcfg.2
  rw [h.cp]
  bv_omega

/-- The two ways a step of a running engine ends (R150): fault entry, or a completed command that was fetched from inside KM. -/
theorem step_of_run (hrun : s.status = .run) : ∃ t, step s = .next t ∧
    ((∃ c w0, t = raiseFault c w0 s) ∨ (s.cp.toNat < s.cfg.kmSize ∧ Completed s t)) := by
  obtain ⟨t, hstep⟩ := step_next s
  refine ⟨t, hstep, ?_⟩
  obtain ⟨hstop, -⟩ | ⟨-, htrap⟩ | ⟨-, i, -, hexec⟩ := step_cases hstep
  · exact absurd hrun hstop
  · exact .inl htrap
  · obtain htrap | hdone := (ExecResult.of_exec hexec).trapped_or_completed
    · exact .inl htrap
    · have hnofault : t.status ≠ .fault := by
        obtain h | h := hdone.run_or_halted hrun <;> simp [h]
      exact .inr ⟨cp_lt_kmSize_of_step hstep hrun hnofault, hdone⟩

/-! ### The end of a run -/

/-- At most `b` engine steps, with no act from outside among them, end the run that `s` belongs to (R157). -/
def State.EndsWithin (s : State) (b : Nat) : Prop :=
  ∃ (n : Nat) (t : State), n ≤ b ∧ runEvents (List.replicate n .engine) s = .next t ∧ t.ended

theorem State.EndsWithin.of_ended (h : s.ended) (b : Nat) : s.EndsWithin b :=
  ⟨0, s, b.zero_le, rfl, h⟩

theorem State.EndsWithin.of_step {b : Nat} (hstep : step s = .next t) (h : t.EndsWithin b) : s.EndsWithin (b + 1) := by
  obtain ⟨n, u, hn, hrun, hended⟩ := h
  refine ⟨n + 1, u, Nat.succ_le_succ hn, ?_, hended⟩
  simpa only [List.replicate_succ, runEvents, eventStep, hstep] using hrun

/-- A step that does not end the run brings `CP` one nearer to `KM_SIZE`, and there the fetch faults (R161). -/
theorem State.endsWithin_of_run (s : State) (hcfg : s.cfg.wf = true) (hrun : s.status = .run) :
    s.EndsWithin (s.cfg.kmSize - s.cp.toNat + 1) := by
  obtain ⟨t, hstep, ⟨c, w0, rfl⟩ | ⟨hcp, hdone⟩⟩ := step_of_run hrun
  · exact .of_step hstep (.of_ended (by simp [State.ended]) _)
  · have hnearer : s.cfg.kmSize - s.cp.toNat = t.cfg.kmSize - t.cp.toNat + 1 := by
      rw [hdone.cp_toNat hcfg hcp, hdone.cfg]
      omega
    refine .of_step hstep ?_
    by_cases htrun : t.status = .run
    · rw [hnearer]
      exact t.endsWithin_of_run (hdone.cfg ▸ hcfg) htrun
    · exact .of_ended htrun _
termination_by s.cfg.kmSize - s.cp.toNat
decreasing_by omega

end

/-- Settles O23: the fetch finds the command, and the step is what the command does. -/
theorem stepRunsTheDecodedCommand : Obligations.StepRunsTheDecodedCommand :=
  fun _ _ => step_of_decode_ok

/-- Settles O27: fault entry writes `STATE` and the fault registers alone, and a completed command was fetched from inside KM, where
`CP` does not wrap. -/
theorem everyRunningStepCompletesOrFaults : Obligations.EveryRunningStepCompletesOrFaults := by
  intro s hrun hcfg
  obtain ⟨t, hstep, ⟨c, w0, rfl⟩ | ⟨hcp, hdone⟩⟩ := step_of_run hrun
  · exact ⟨_, hstep, .inl ⟨rfl, rfl, c.code_range⟩⟩
  · have hnext := hdone.cp_toNat hcfg hcp
    exact ⟨t, hstep, .inr ⟨hdone.run_or_halted hrun, hnext, by omega, hdone.fcode, hdone.fcp, hdone.finfo⟩⟩

/-- Settles O56, by recursion on the number of descriptors between `CP` and `KM_SIZE`. -/
theorem everyRunEnds : Obligations.EveryRunEnds :=
  fun s => s.endsWithin_of_run

end Sys2Proof.Machine

/-! ## O28 and O29: `NOP` and `HALT`

Neither command has an operand, so only one descriptor decodes to it: every other one with its opcode has a field that is not clear. -/

namespace Sys2Proof

/-- The opcode field is the low byte of `W0` (R50). -/
theorem Descriptor.fields_opc (d : Descriptor) : d.fields.opc = (d.w0.setWidth 8).toNat := by
  simp [Descriptor.fields]

/-- A command without operands has one descriptor; any other with its opcode is rejected as reserved (R55, R57). -/
theorem decode_badReserved_of_no_operands {i : Instr} {d : Descriptor} (hi : ∀ f, i.op.build f = i)
    (hopc : d.fields.opc = i.op.code) (hd : d ≠ encode i) : decode d = .error .badReserved := by
  refine decode_eq_badReserved_iff.2 ⟨i.op, hopc.symm, Bool.eq_false_iff.2 fun hclear => hd ?_⟩
  have hok : decode d = .ok i := decode_eq_ok_iff.2 ⟨i.op, hopc.symm, hclear, hi d.fields⟩
  exact (encode_of_decode hok).symm

theorem encode_nop : encode .nop = ⟨0, 0, 0⟩ := by decide

theorem encode_halt : encode .halt = ⟨1, 0, 0⟩ := by decide

end Sys2Proof

namespace Sys2Proof.Machine

/-- While `HALTED` the interrupt line is the enable `EN_HALT` (R31). -/
theorem State.irq_of_halted {s : State} (h : s.status = .halted) : s.irq = s.irqEn.getLsbD 0 := by
  rw [Bool.eq_iff_iff, State.irq_iff]
  simp [h]

/-- Settles O28: `NOP` has no check and no effect but the advance of `CP`. -/
theorem nopOnlyAdvances : Obligations.NopOnlyAdvances := by
  refine ⟨fun _ => rfl, ?_, fun d hopc hd => ?_⟩
  · rw [← encode_nop]
    exact decode_encode rfl
  · exact decode_badReserved_of_no_operands (i := .nop) (fun _ => rfl) (by rw [d.fields_opc, hopc]; rfl) (encode_nop ▸ hd)

/-- Settles O29: `HALT` has no check, and it leaves the state `HALTED`, where `IRQ` is its enable. -/
theorem haltStopsTheEngine : Obligations.HaltStopsTheEngine := by
  refine ⟨fun _ => ⟨rfl, State.irq_of_halted rfl⟩, ?_, fun d hopc hd => ?_⟩
  · rw [← encode_halt]
    exact decode_encode rfl
  · exact decode_badReserved_of_no_operands (i := .halt) (fun _ => rfl) (by rw [d.fields_opc, hopc]; rfl) (encode_halt ▸ hd)

end Sys2Proof.Machine

/-! ## O43 to O47: each command takes the first fault in code order

A command is a check and an effect (`RunsCheck`), and where its check finds a fault it enters `FAULT` and does nothing else. What is left
is which fault each check finds: one rule per check, which goes down the list of its conditions in code order (R168). -/

namespace Sys2Proof.Machine

section

variable {i : Instr} {s : State} {check : Option FaultCode} {c : FaultCode} {dst src0 src1 n m r t la lb : Nat}

/-! ### Fault entry by a command -/

/-- The command `i` makes the check `check` in the state `s`, before it has any effect (R169). -/
def RunsCheck (i : Instr) (s : State) (check : Option FaultCode) : Prop :=
  ∃ effect, exec i s = runCommand (encode i).w0 check effect s

/-- A command whose check finds a fault takes it. The one code that records no `W0` is that of the fetch (R170). -/
theorem RunsCheck.trap (h : RunsCheck i s check) (hcheck : check = some c) (hc : c ≠ .fetch := by decide) :
    exec i s = .next (trapState c.code i s) := by
  obtain ⟨effect, hexec⟩ := h
  have hinfo : (if c = .fetch then 0 else (encode i).w0) = (encode i).w0 := if_neg hc
  rw [hexec, hcheck, runCommand_some, raiseFault, hinfo]
  rfl

/-- The element-wise commands with two XM sources. -/
theorem RunsCheck.elementwise2 (h : i = .eadd dst src0 src1 n ∨ i = .esub dst src0 src1 n ∨ i = .emul dst src0 src1 n) :
    RunsCheck i s (ewCheck2 s dst src0 src1 n) := by
  obtain rfl | rfl | rfl := h
  · exact ⟨mapXm2 radd dst src0 src1 n, rfl⟩
  · exact ⟨mapXm2 rsub dst src0 src1 n, rfl⟩
  · exact ⟨mapXm2 rmul dst src0 src1 n, rfl⟩

/-- The element-wise commands with one XM source. -/
theorem RunsCheck.elementwise1 {k : Nat} (h : i = .eneg dst src0 n ∨ i = .econj dst src0 n ∨ i = .esc3 dst src0 n k) :
    RunsCheck i s (ewCheck1 s dst src0 n) := by
  obtain rfl | rfl | rfl := h
  · exact ⟨mapXm1 rneg dst src0 n, rfl⟩
  · exact ⟨mapXm1 rconj dst src0 n, rfl⟩
  · exact ⟨mapXm1 (fun u => rsc3 u k) dst src0 n, rfl⟩

theorem RunsCheck.eemb : RunsCheck (.eemb dst src0 n) s (embedCheck s dst src0 n) :=
  ⟨_, exec_eemb s dst src0 n⟩

theorem RunsCheck.twid : RunsCheck (.twid dst src0 m t) s (twiddleCheck s dst src0 m t) :=
  ⟨_, exec_twid_eq_runCommand s dst src0 m t⟩

/-- The two transforms make the same check (R102). -/
theorem RunsCheck.transform (h : i = .fft3 dst r m ∨ i = .ifft3 dst r m) : RunsCheck i s (transformCheck s dst r m) := by
  obtain rfl | rfl := h
  · exact ⟨transformXm fft3 dst r m, rfl⟩
  · exact ⟨transformXm ifft3 dst r m, rfl⟩

theorem RunsCheck.mulmod : RunsCheck (.mulmod dst src0 src1 n) s (mulmodCheck s dst src0 src1 n) :=
  ⟨_, exec_mulmod_eq_runCommand s dst src0 src1 n⟩

theorem RunsCheck.cconv : RunsCheck (.cconv dst src0 src1 n) s (cconvCheck s dst src0 src1 n) :=
  ⟨_, exec_cconv_eq_runCommand s dst src0 src1 n⟩

theorem RunsCheck.pmul : RunsCheck (.pmul dst src0 la src1 lb) s (pmulCheck s dst src0 la src1 lb) :=
  ⟨_, exec_pmul_eq_runCommand s dst src0 la src1 lb⟩

/-! ### Which fault a check finds (R168)

Each condition either fails and gives its code, or passes and leaves the decision to the conditions behind it. -/

theorem firstFault_cons_eq_some_iff {bad : Bool} {d : FaultCode} {rest : List (Bool × FaultCode)} :
    firstFault ((bad, d) :: rest) = some c ↔ (¬ bad = false ∧ d = c) ∨ (bad = false ∧ firstFault rest = some c) := by
  cases bad <;> simp

theorem firstFault_nil_ne_some : ¬ firstFault [] = some c := by
  simp

theorem ewCheck2_eq_some_iff : ewCheck2 s dst src0 src1 n = some c ↔
    (n = 0 ∧ .param = c) ∨ (n ≠ 0 ∧
      ((¬ (dst + n ≤ s.cfg.xmSize ∧ src0 + n ≤ s.cfg.xmSize ∧ src1 + n ≤ s.cfg.xmSize) ∧ .range = c) ∨
        ((dst + n ≤ s.cfg.xmSize ∧ src0 + n ≤ s.cfg.xmSize ∧ src1 + n ≤ s.cfg.xmSize) ∧
          ¬ (SameOrApart dst src0 n ∧ SameOrApart dst src1 n) ∧ .overlap = c))) := by
  simp only [ewCheck2, firstFault_cons_eq_some_iff, firstFault_nil_ne_some, Bool.or_eq_false_iff, leaves_eq_false,
    ewClash_eq_false, beq_eq_false_iff_ne, ne_eq, not_not, and_false, or_false, and_assoc]

theorem ewCheck1_eq_some_iff : ewCheck1 s dst src0 n = some c ↔
    (n = 0 ∧ .param = c) ∨ (n ≠ 0 ∧
      ((¬ (dst + n ≤ s.cfg.xmSize ∧ src0 + n ≤ s.cfg.xmSize) ∧ .range = c) ∨
        ((dst + n ≤ s.cfg.xmSize ∧ src0 + n ≤ s.cfg.xmSize) ∧ ¬ SameOrApart dst src0 n ∧ .overlap = c))) := by
  simp only [ewCheck1, firstFault_cons_eq_some_iff, firstFault_nil_ne_some, Bool.or_eq_false_iff, leaves_eq_false,
    ewClash_eq_false, beq_eq_false_iff_ne, ne_eq, not_not, and_false, or_false]

theorem embedCheck_eq_some_iff : embedCheck s dst src0 n = some c ↔
    (n = 0 ∧ .param = c) ∨ (n ≠ 0 ∧ ¬ (dst + n ≤ s.cfg.xmSize ∧ src0 + n ≤ s.cfg.cmSize) ∧ .range = c) := by
  simp only [embedCheck, firstFault_cons_eq_some_iff, firstFault_nil_ne_some, Bool.or_eq_false_iff, leaves_eq_false,
    beq_eq_false_iff_ne, ne_eq, not_not, and_false, or_false]

theorem twiddleCheck_eq_some_iff : twiddleCheck s dst src0 m t = some c ↔
    (¬ ((∃ k, m = 3 ^ k) ∧ t ≤ 3 * m) ∧ .param = c) ∨ (((∃ k, m = 3 ^ k) ∧ t ≤ 3 * m) ∧
      ((¬ (dst + m ≤ s.cfg.xmSize ∧ src0 + m ≤ s.cfg.xmSize) ∧ .range = c) ∨
        ((dst + m ≤ s.cfg.xmSize ∧ src0 + m ≤ s.cfg.xmSize) ∧ ¬ Apart dst m src0 m ∧ .overlap = c))) := by
  simp only [twiddleCheck, firstFault_cons_eq_some_iff, firstFault_nil_ne_some, Bool.or_eq_false_iff, leaves_eq_false,
    overlap_eq_false, Bool.not_eq_false', isPow3_iff, decide_eq_false_iff_not, not_lt, and_false, or_false]

theorem transformCheck_eq_some_iff : transformCheck s dst r m = some c ↔
    (¬ ((∃ k, r = 3 ^ k) ∧ (∃ k, m = 3 ^ k) ∧ r ≤ 3 * m) ∧ .param = c) ∨
    (((∃ k, r = 3 ^ k) ∧ (∃ k, m = 3 ^ k) ∧ r ≤ 3 * m) ∧
      ((¬ dst + r * m ≤ s.cfg.xmSize ∧ .range = c) ∨ (dst + r * m ≤ s.cfg.xmSize ∧
        ((¬ ArenaGranted s (needFft r m) ∧ .arena = c) ∨ (ArenaGranted s (needFft r m) ∧
          ¬ ArenaClear s (needFft r m) dst (r * m) ∧ .overlap = c))))) := by
  simp only [transformCheck, firstFault_cons_eq_some_iff, firstFault_nil_ne_some, Bool.or_eq_false_iff, leaves_eq_false,
    arenaBad_eq_false, arenaClash_eq_false, Bool.not_eq_false', isPow3_iff, decide_eq_false_iff_not, not_lt, and_false,
    or_false, and_assoc]

theorem mulmodCheck_eq_some_iff : mulmodCheck s dst src0 src1 n = some c ↔
    (¬ (∃ k, n = 3 ^ k) ∧ .param = c) ∨ ((∃ k, n = 3 ^ k) ∧
      ((¬ (dst + n ≤ s.cfg.xmSize ∧ src0 + n ≤ s.cfg.xmSize ∧ src1 + n ≤ s.cfg.xmSize) ∧ .range = c) ∨
        ((dst + n ≤ s.cfg.xmSize ∧ src0 + n ≤ s.cfg.xmSize ∧ src1 + n ≤ s.cfg.xmSize) ∧
          ((¬ ArenaGranted s (needMul n) ∧ .arena = c) ∨ (ArenaGranted s (needMul n) ∧
            ¬ (Apart dst n src0 n ∧ Apart dst n src1 n ∧ ArenaClear s (needMul n) dst n ∧
              ArenaClear s (needMul n) src0 n ∧ ArenaClear s (needMul n) src1 n) ∧ .overlap = c))))) := by
  simp only [mulmodCheck, firstFault_cons_eq_some_iff, firstFault_nil_ne_some, Bool.or_eq_false_iff, leaves_eq_false,
    overlap_eq_false, arenaBad_eq_false, arenaClash_eq_false, Bool.not_eq_false', isPow3_iff, and_false, or_false, and_assoc]

theorem cconvCheck_eq_some_iff : cconvCheck s dst src0 src1 n = some c ↔
    (¬ (∃ k, n = 3 ^ k) ∧ .param = c) ∨ ((∃ k, n = 3 ^ k) ∧
      ((¬ (dst + n ≤ s.cfg.cmSize ∧ src0 + n ≤ s.cfg.cmSize ∧ src1 + n ≤ s.cfg.cmSize) ∧ .range = c) ∨
        ((dst + n ≤ s.cfg.cmSize ∧ src0 + n ≤ s.cfg.cmSize ∧ src1 + n ≤ s.cfg.cmSize) ∧
          ¬ ArenaGranted s (needCc n) ∧ .arena = c))) := by
  simp only [cconvCheck, firstFault_cons_eq_some_iff, firstFault_nil_ne_some, Bool.or_eq_false_iff, leaves_eq_false,
    arenaBad_eq_false, Bool.not_eq_false', isPow3_iff, and_false, or_false, and_assoc]

theorem pmulCheck_eq_some_iff : pmulCheck s dst src0 la src1 lb = some c ↔
    (¬ (la ≠ 0 ∧ lb ≠ 0) ∧ .param = c) ∨ ((la ≠ 0 ∧ lb ≠ 0) ∧
      ((¬ (dst + (la + lb - 1) ≤ s.cfg.cmSize ∧ src0 + la ≤ s.cfg.cmSize ∧ src1 + lb ≤ s.cfg.cmSize) ∧ .range = c) ∨
        ((dst + (la + lb - 1) ≤ s.cfg.cmSize ∧ src0 + la ≤ s.cfg.cmSize ∧ src1 + lb ≤ s.cfg.cmSize) ∧
          ¬ ArenaGranted s (needCc (pow3Ceil (la + lb - 1))) ∧ .arena = c))) := by
  simp only [pmulCheck, firstFault_cons_eq_some_iff, firstFault_nil_ne_some, Bool.or_eq_false_iff, leaves_eq_false,
    arenaBad_eq_false, beq_eq_false_iff_ne, and_false, or_false, and_assoc]

end

/-! ### The commands -/

/-- Settles O43: the commands with two sources make the check `ewCheck2`, those with one source `ewCheck1`. -/
theorem elementwiseFaultsInCodeOrder : Obligations.ElementwiseFaultsInCodeOrder := by
  refine ⟨fun s xd xs0 xs1 len i hi => ?_, fun s xd xs0 len k i hi => ?_⟩
  · have hrun : RunsCheck i s (ewCheck2 s xd xs0 xs1 len) := .elementwise2 hi
    refine ⟨fun hlen => ?param, fun hlen hout => ?range, fun hlen hd h0 h1 hclash => ?overlap⟩
    case param => exact hrun.trap (c := .param) (ewCheck2_eq_some_iff.2 (.inl ⟨hlen, rfl⟩))
    case range => exact hrun.trap (c := .range) (ewCheck2_eq_some_iff.2 (.inr ⟨hlen, .inl ⟨by omega, rfl⟩⟩))
    case overlap =>
      exact hrun.trap (c := .overlap) (ewCheck2_eq_some_iff.2 (.inr ⟨hlen, .inr ⟨⟨hd, h0, h1⟩, hclash, rfl⟩⟩))
  · have hrun : RunsCheck i s (ewCheck1 s xd xs0 len) := .elementwise1 hi
    refine ⟨fun hlen => ?param, fun hlen hout => ?range, fun hlen hd h0 hclash => ?overlap⟩
    case param => exact hrun.trap (c := .param) (ewCheck1_eq_some_iff.2 (.inl ⟨hlen, rfl⟩))
    case range => exact hrun.trap (c := .range) (ewCheck1_eq_some_iff.2 (.inr ⟨hlen, .inl ⟨by omega, rfl⟩⟩))
    case overlap =>
      exact hrun.trap (c := .overlap) (ewCheck1_eq_some_iff.2 (.inr ⟨hlen, .inr ⟨⟨hd, h0⟩, hclash, rfl⟩⟩))

/-- Settles O44: `EEMB` has no overlap to look at, since its source lies in CM; `TWID` is of class DISJ. -/
theorem eembAndTwidFaultInCodeOrder : Obligations.EembAndTwidFaultInCodeOrder := by
  refine ⟨fun s xd cs0 len => ?_, fun s xd xs0 m sh => ?_⟩
  · refine ⟨fun hlen => ?param, fun hlen hout => ?range⟩
    case param => exact RunsCheck.eemb.trap (c := .param) (embedCheck_eq_some_iff.2 (.inl ⟨hlen, rfl⟩))
    case range => exact RunsCheck.eemb.trap (c := .range) (embedCheck_eq_some_iff.2 (.inr ⟨hlen, by omega, rfl⟩))
  · refine ⟨fun hbad => ?param, fun hm hsh hout => ?range, fun hm hsh hd h0 hclash => ?overlap⟩
    case param =>
      have hbad' : ¬ ((∃ k, m = 3 ^ k) ∧ sh ≤ 3 * m) := fun ⟨hm, hsh⟩ => hbad.elim (· hm) (by omega)
      exact RunsCheck.twid.trap (c := .param) (twiddleCheck_eq_some_iff.2 (.inl ⟨hbad', rfl⟩))
    case range =>
      exact RunsCheck.twid.trap (c := .range) (twiddleCheck_eq_some_iff.2 (.inr ⟨⟨hm, hsh⟩, .inl ⟨by omega, rfl⟩⟩))
    case overlap =>
      exact RunsCheck.twid.trap (c := .overlap)
        (twiddleCheck_eq_some_iff.2 (.inr ⟨⟨hm, hsh⟩, .inr ⟨⟨hd, h0⟩, hclash, rfl⟩⟩))

/-- Settles O45: both transforms make the check `transformCheck`. -/
theorem transformsFaultInCodeOrder : Obligations.TransformsFaultInCodeOrder := by
  intro s xd r m i hi
  have hrun : RunsCheck i s (transformCheck s xd r m) := .transform hi
  refine ⟨fun hbad => ?param, fun hr hm hrm hout => ?range, fun hr hm hrm hd hbad => ?arena,
    fun hr hm hrm hd hgranted hclash => ?overlap⟩
  case param =>
    have hbad' : ¬ ((∃ k, r = 3 ^ k) ∧ (∃ k, m = 3 ^ k) ∧ r ≤ 3 * m) :=
      fun ⟨hr, hm, hrm⟩ => hbad.elim (· hr) fun h => h.elim (· hm) (by omega)
    exact hrun.trap (c := .param) (transformCheck_eq_some_iff.2 (.inl ⟨hbad', rfl⟩))
  case range =>
    exact hrun.trap (c := .range) (transformCheck_eq_some_iff.2 (.inr ⟨⟨hr, hm, hrm⟩, .inl ⟨not_le.2 hout, rfl⟩⟩))
  case arena =>
    exact hrun.trap (c := .arena)
      (transformCheck_eq_some_iff.2 (.inr ⟨⟨hr, hm, hrm⟩, .inr ⟨hd, .inl ⟨hbad, rfl⟩⟩⟩))
  case overlap =>
    exact hrun.trap (c := .overlap)
      (transformCheck_eq_some_iff.2 (.inr ⟨⟨hr, hm, hrm⟩, .inr ⟨hd, .inr ⟨hgranted, hclash, rfl⟩⟩⟩))

/-- Settles O46: the two causes of `F_OVERLAP` are one condition of the check. -/
theorem mulmodFaultsInCodeOrder : Obligations.MulmodFaultsInCodeOrder := by
  intro s xd xs0 xs1 n
  refine ⟨fun hn => ?param, fun hn hout => ?range, fun hn hd h0 h1 hbad => ?arena,
    fun hn hd h0 h1 hgranted hclash => ?overlap⟩
  case param => exact RunsCheck.mulmod.trap (c := .param) (mulmodCheck_eq_some_iff.2 (.inl ⟨hn, rfl⟩))
  case range =>
    exact RunsCheck.mulmod.trap (c := .range) (mulmodCheck_eq_some_iff.2 (.inr ⟨hn, .inl ⟨by omega, rfl⟩⟩))
  case arena =>
    exact RunsCheck.mulmod.trap (c := .arena)
      (mulmodCheck_eq_some_iff.2 (.inr ⟨hn, .inr ⟨⟨hd, h0, h1⟩, .inl ⟨hbad, rfl⟩⟩⟩))
  case overlap =>
    exact RunsCheck.mulmod.trap (c := .overlap)
      (mulmodCheck_eq_some_iff.2 (.inr ⟨hn, .inr ⟨⟨hd, h0, h1⟩, .inr ⟨hgranted, hclash, rfl⟩⟩⟩))

/-- Settles O47: the checks of class FREE end with the arena. -/
theorem convolutionsFaultInCodeOrder : Obligations.ConvolutionsFaultInCodeOrder := by
  refine ⟨fun s cd cs0 cs1 n => ?_, fun s cd cs0 la cs1 lb => ?_⟩
  · refine ⟨fun hn => ?param, fun hn hout => ?range, fun hn hd h0 h1 hbad => ?arena⟩
    case param => exact RunsCheck.cconv.trap (c := .param) (cconvCheck_eq_some_iff.2 (.inl ⟨hn, rfl⟩))
    case range =>
      exact RunsCheck.cconv.trap (c := .range) (cconvCheck_eq_some_iff.2 (.inr ⟨hn, .inl ⟨by omega, rfl⟩⟩))
    case arena =>
      exact RunsCheck.cconv.trap (c := .arena) (cconvCheck_eq_some_iff.2 (.inr ⟨hn, .inr ⟨⟨hd, h0, h1⟩, hbad, rfl⟩⟩))
  · refine ⟨fun hempty => ?param, fun hla hlb hout => ?range, fun hla hlb hd h0 h1 hbad => ?arena⟩
    case param => exact RunsCheck.pmul.trap (c := .param) (pmulCheck_eq_some_iff.2 (.inl ⟨by omega, rfl⟩))
    case range =>
      exact RunsCheck.pmul.trap (c := .range) (pmulCheck_eq_some_iff.2 (.inr ⟨⟨hla, hlb⟩, .inl ⟨by omega, rfl⟩⟩))
    case arena =>
      exact RunsCheck.pmul.trap (c := .arena)
        (pmulCheck_eq_some_iff.2 (.inr ⟨⟨hla, hlb⟩, .inr ⟨⟨hd, h0, h1⟩, hbad, rfl⟩⟩))

end Sys2Proof.Machine

/-! ## O24 and O25: a step that reads no descriptor

While `STATE ≠ RUN` there is no fetch, and past the end of KM the fetch faults before it reads (R161). Both are read off what the fetch
can find (`fetchDecode_cases`). -/

namespace Sys2Proof.Machine

section

variable {s : State}

theorem step_of_ne_run (hstop : s.status ≠ .run) : step s = .next s := by
  obtain ⟨-, hf⟩ | ⟨hrun, -⟩ | ⟨hrun, -⟩ | ⟨hrun, -⟩ := fetchDecode_cases s
  · rw [step, hf]
  · exact absurd hrun hstop
  · exact absurd hrun hstop
  · exact absurd hrun hstop

theorem step_of_kmSize_le_cp (hrun : s.status = .run) (hpast : s.cfg.kmSize ≤ s.cp.toNat) :
    step s = .next (raiseFault .fetch 0 s) := by
  obtain ⟨hstop, -⟩ | ⟨-, -, hf⟩ | ⟨-, hcp, -⟩ | ⟨-, hcp, -⟩ := fetchDecode_cases s
  · exact absurd hrun hstop
  · rw [step, hf]
  · omega
  · omega

end

/-- Settles O24. -/
theorem stoppedEngineDoesNothing : Obligations.StoppedEngineDoesNothing :=
  fun _ => step_of_ne_run

/-- Settles O25: fault entry by the fetch writes `STATE` and the three fault registers, with `FINFO` 0 (R170). -/
theorem fetchPastTheEndFaults : Obligations.FetchPastTheEndFaults :=
  fun _ => step_of_kmSize_le_cp

end Sys2Proof.Machine

/-! ## O1 to O4, O13: the extension ring

The ring functions are the operations of `Ext`, the quadratic algebra over the words with `ω² = −1 − ω`: `toExt` sends each of
them to the operation of that name and is injective, so a law of the ring functions is a law of `Ext`, which Mathlib knows as a
commutative ring with the conjugation `star`. -/

namespace Sys2Proof.Machine

open scoped QuadraticAlgebra

/-! ### The ring of the elements -/

/-- The extension ring of R7: `a + b·ω` over the words, with `ω² = −1 − ω`. -/
abbrev Ext := QuadraticAlgebra Word (-1) (-1)

/-- The ring element that a pair stands for (R7). -/
def toExt (u : Elt) : Ext := ⟨u.a, u.b⟩

/-- The pair that stands for a ring element (R7). -/
def ofExt (z : Ext) : Elt := ⟨z.re, z.im⟩

@[simp] theorem toExt_ofExt (z : Ext) : toExt (ofExt z) = z := rfl

@[simp] theorem ofExt_toExt (u : Elt) : ofExt (toExt u) = u := rfl

@[simp] theorem toExt_inj {u v : Elt} : toExt u = toExt v ↔ u = v :=
  ⟨fun h => by rw [← ofExt_toExt u, h, ofExt_toExt], congrArg toExt⟩

@[simp] theorem toExt_rzero : toExt rzero = 0 := rfl

@[simp] theorem toExt_rone : toExt rone = 1 := rfl

@[simp] theorem toExt_radd (u v : Elt) : toExt (radd u v) = toExt u + toExt v := rfl

@[simp] theorem toExt_rsub (u v : Elt) : toExt (rsub u v) = toExt u - toExt v := rfl

@[simp] theorem toExt_rneg (u : Elt) : toExt (rneg u) = -toExt u := rfl

@[simp] theorem toExt_remb (x : Word) : toExt (remb x) = algebraMap Word Ext x := rfl

@[simp] theorem toExt_rmul (u v : Elt) : toExt (rmul u v) = toExt u * toExt v := by
  apply QuadraticAlgebra.ext
  · simp only [toExt, rmul, QuadraticAlgebra.re_mul]
    ring
  · simp only [toExt, rmul, QuadraticAlgebra.im_mul]
    ring

@[simp] theorem toExt_rconj (u : Elt) : toExt (rconj u) = star (toExt u) := by
  apply QuadraticAlgebra.ext
  · simp only [toExt, rconj, QuadraticAlgebra.re_star]
    ring
  · simp only [toExt, rconj, QuadraticAlgebra.im_star]

/-! ### ω and the constants -/

/-- The minimal polynomial of ω (R7). -/
theorem one_add_omega_add_sq : (1 : Ext) + ω + ω ^ 2 = 0 := by decide

theorem omega_pow_three : (ω : Ext) ^ 3 = 1 := by
  linear_combination ((ω : Ext) - 1) * one_add_omega_add_sq

theorem star_omega : star (ω : Ext) = ω ^ 2 := by decide

@[simp] theorem toExt_omega1 : toExt omega1 = ω := rfl

@[simp] theorem toExt_omega2 : toExt omega2 = ω ^ 2 := by decide

@[simp] theorem toExt_w1mw : toExt w1mw = 1 - ω := by decide

@[simp] theorem toExt_w1mw2 : toExt w1mw2 = 1 - ω ^ 2 := by decide

@[simp] theorem toExt_ww2mw : toExt ww2mw = ω ^ 2 - ω := by decide

/-- `INV3` is the inverse of 3 modulo 2^64 (R8). -/
theorem inv3_mul_three : inv3 * 3 = 1 := by decide

theorem inv3_pow_mul_three_pow (k : Nat) : inv3 ^ k * 3 ^ k = 1 := by
  rw [← mul_pow, inv3_mul_three, one_pow]

/-- Scaling is multiplication by the word `INV3^k` (R76). -/
theorem rsc3_eq_rmul (u : Elt) (k : Nat) : rsc3 u k = rmul u (remb (inv3 ^ k)) := by
  simp [rsc3_eq, rmul, remb]

@[simp] theorem toExt_rsc3 (u : Elt) (k : Nat) : toExt (rsc3 u k) = toExt u * algebraMap Word Ext (inv3 ^ k) := by
  rw [rsc3_eq_rmul, toExt_rmul, toExt_remb]

theorem rwpow_of_mod_three_eq_one (u : Elt) {q : Nat} (hq : q % 3 = 1) : rwpow u q = ⟨-u.b, u.a - u.b⟩ := by
  simp only [rwpow, hq]

theorem rwpow_of_mod_three_eq_two (u : Elt) {q : Nat} (hq : q % 3 = 2) : rwpow u q = ⟨u.b - u.a, -u.a⟩ := by
  simp only [rwpow, hq]

theorem rmul_omega1 (u : Elt) : rmul u omega1 = ⟨-u.b, u.a - u.b⟩ := by
  simp [rmul, omega1]

theorem rmul_omega2 (u : Elt) : rmul u omega2 = ⟨u.b - u.a, -u.a⟩ := by
  rw [show omega2 = ⟨-1, -1⟩ by decide, rmul, Elt.mk.injEq]
  exact ⟨by ring, by ring⟩

/-- `rwpow` is multiplication by the power of ω (R77). -/
@[simp] theorem toExt_rwpow (u : Elt) (q : Nat) : toExt (rwpow u q) = toExt u * ω ^ q := by
  have hred : (ω : Ext) ^ q = ω ^ (q % 3) := by
    rw [← Nat.div_add_mod q 3, pow_add, pow_mul, omega_pow_three, one_pow, one_mul, Nat.mul_add_mod, Nat.mod_mod]
  obtain h | h | h : q % 3 = 0 ∨ q % 3 = 1 ∨ q % 3 = 2 := by omega
  · rw [rwpow_of_mod_three_eq_zero u h, hred, h, pow_zero, mul_one]
  · rw [rwpow_of_mod_three_eq_one u h, ← rmul_omega1, toExt_rmul, toExt_omega1, hred, h, pow_one]
  · rw [rwpow_of_mod_three_eq_two u h, ← rmul_omega2, toExt_rmul, toExt_omega2, hred, h]

theorem radd_rzero (u : Elt) : radd u rzero = u := by
  rw [← toExt_inj, toExt_radd, toExt_rzero, add_zero]

/-- A sum of ring elements is the sum in the ring. -/
@[simp] theorem toExt_rsum (us : List Elt) : toExt (rsum us) = (us.map toExt).sum := by
  induction us with
  | nil => rfl
  | cons u us ih => rw [List.map_cons, List.sum_cons, ← ih, ← toExt_radd]; rfl

/-- A sum over `0, …, n − 1` in the model's form is the sum over that range. -/
theorem toExt_rsum_range (n : Nat) (f : Nat → Elt) :
    toExt (rsum ((List.range n).map f)) = ∑ i ∈ Finset.range n, toExt (f i) := by
  rw [toExt_rsum, List.map_map]
  rfl

/-! ### The obligations -/

/-- Settles O1. The words are compared, and a word that 3 takes to 1 is `INV3`, because `INV3` undoes the 3. -/
theorem crtWeightsAndConstantsHaveTheirWords : Obligations.CrtWeightsAndConstantsHaveTheirWords := by
  refine ⟨by decide, by decide, by decide, by decide, by decide, by decide, by decide, fun x => ⟨fun h => ?_, ?_⟩⟩
  · calc x = inv3 * 3 * x := by rw [inv3_mul_three, one_mul]
      _ = inv3 := by rw [mul_assoc, h, mul_one]
  · rintro rfl
    rw [mul_comm, inv3_mul_three]

/-- The conjugate of an element in terms of its words (R74). -/
theorem radd_rconj (u : Elt) : radd u (rconj u) = ⟨2 * u.a - u.b, 0⟩ := by
  rw [radd, rconj, Elt.mk.injEq]
  exact ⟨by ring, by ring⟩

/-- The norm of an element in terms of its words. -/
theorem rmul_rconj (u : Elt) : rmul u (rconj u) = ⟨u.a * u.a - u.a * u.b + u.b * u.b, 0⟩ := by
  rw [rmul, rconj, Elt.mk.injEq]
  exact ⟨by ring, by ring⟩

/-- Settles O2: each law is the law of `Ext`. -/
theorem extensionRingLaws : Obligations.ExtensionRingLaws := by
  simp only [Obligations.ExtensionRingLaws, ← toExt_inj, toExt_rconj, toExt_rmul, toExt_radd, toExt_rsub, toExt_rneg,
    toExt_rzero, toExt_rone, toExt_remb, toExt_omega1, toExt_omega2]
  refine ⟨fun _ _ => star_mul' _ _, fun _ => star_star _, fun _ _ _ => add_assoc _ _ _, fun _ _ => add_comm _ _,
    fun _ => zero_add _, fun _ => add_neg_cancel _, fun _ _ => sub_eq_add_neg _ _, fun _ _ _ => mul_assoc _ _ _,
    fun _ _ => mul_comm _ _, fun _ => one_mul _, fun _ _ _ => mul_add _ _ _, map_add _, map_mul _, map_one _,
    fun _ _ => star_add _ _, ?_, star_omega, ?_, one_add_omega_add_sq, (sq _).symm, ?_, ?_, ?_, ?_⟩
  · exact fun x => by rw [← toExt_remb, ← toExt_rconj, toExt_inj]; simp [rconj, remb]
  · rw [star_pow, star_omega]
    linear_combination (ω : Ext) * omega_pow_three
  · linear_combination omega_pow_three
  · exact fun u => by rw [← toExt_rconj, ← toExt_radd, radd_rconj]
  · exact fun u => by rw [← toExt_rconj, ← toExt_rmul, rmul_rconj]
  · decide

/-- Settles O3: scaling is multiplication by `INV3^k`, and `INV3^k · 3^k = 1`. -/
theorem scalingIsUndoneByThePowerOfThree : Obligations.ScalingIsUndoneByThePowerOfThree := by
  intro u k
  have hundo : ∀ x : Word, x * inv3 ^ k * 3 ^ k = x := fun x => by rw [mul_assoc, inv3_pow_mul_three_pow, mul_one]
  refine ⟨rsc3_eq u k, rsc3_eq_rmul u k, rsc3_zero u, fun j => ?_, ?_, ?_⟩
  · simp only [rsc3_eq, mul_assoc, ← pow_add]
  · rw [rsc3_eq, hundo]
  · rw [rsc3_eq, hundo]

/-- Settles O4: the three formulas are the definition, and each is a product with a power of ω. -/
theorem omegaPowersMultiplyByOmega : Obligations.OmegaPowersMultiplyByOmega := by
  intro u q
  refine ⟨rwpow_of_mod_three_eq_zero u, fun h => ⟨rwpow_of_mod_three_eq_one u h, ?_⟩,
    fun h => ⟨rwpow_of_mod_three_eq_two u h, ?_⟩, ?_⟩
  · rw [rwpow_of_mod_three_eq_one u h, rmul_omega1]
  · rw [rwpow_of_mod_three_eq_two u h, rmul_omega2]
  · rw [← toExt_inj, toExt_rmul, toExt_rwpow, toExt_rwpow, toExt_omega1, pow_succ, mul_assoc]

/-! ### The CRT (R116) -/

theorem algebraMap_inv3_mul_three : algebraMap Word Ext inv3 * 3 = 1 := by decide

/-- `(1 − ω)·(lo + ω·hi) + (1 − ω²)·(lo + ω²·hi) = 3·lo`. -/
theorem crtLo_residues (lo hi : Elt) : crtLo (radd lo (rmul omega1 hi)) (radd lo (rmul omega2 hi)) = lo := by
  rw [← toExt_inj]
  simp only [crtLo, toExt_rsc3, toExt_radd, toExt_rmul, toExt_w1mw, toExt_w1mw2, toExt_omega1, toExt_omega2, pow_one]
  linear_combination toExt lo * algebraMap_inv3_mul_three -
    algebraMap Word Ext inv3 * (toExt lo + ω * (ω - 1) * toExt hi) * one_add_omega_add_sq

/-- `(ω² − ω)·(lo + ω·hi − lo − ω²·hi) = 3·hi`. -/
theorem crtHi_residues (lo hi : Elt) : crtHi (radd lo (rmul omega1 hi)) (radd lo (rmul omega2 hi)) = hi := by
  rw [← toExt_inj]
  simp only [crtHi, toExt_rsc3, toExt_radd, toExt_rsub, toExt_rmul, toExt_ww2mw, toExt_omega1, toExt_omega2, pow_one]
  linear_combination toExt hi * algebraMap_inv3_mul_three -
    algebraMap Word Ext inv3 * toExt hi * (1 - (2 - ω) * (ω - 1)) * one_add_omega_add_sq

/-- An element as the residue of its own words. -/
theorem eq_radd_remb (u : Elt) : u = radd (remb u.a) (rmul omega1 (remb u.b)) := by
  simp [radd, rmul, remb, omega1]

theorem rconj_eq_radd_remb (u : Elt) : rconj u = radd (remb u.a) (rmul omega2 (remb u.b)) := by
  rw [show omega2 = ⟨-1, -1⟩ by decide, rconj, radd, rmul, remb, remb, Elt.mk.injEq]
  exact ⟨by ring, by ring⟩

/-- The simple forms of the driver (R134). -/
theorem crtLo_rconj (u : Elt) : crtLo u (rconj u) = remb u.a := by
  rw [rconj_eq_radd_remb]
  nth_rw 1 [eq_radd_remb u]
  exact crtLo_residues _ _

theorem crtHi_rconj (u : Elt) : crtHi u (rconj u) = remb u.b := by
  rw [rconj_eq_radd_remb]
  nth_rw 1 [eq_radd_remb u]
  exact crtHi_residues _ _

/-- Settles O13: the simple forms of the driver are the CRT of the residues of two words. -/
theorem crtRecoversBothHalves : Obligations.CrtRecoversBothHalves :=
  ⟨fun lo hi => ⟨crtLo_residues lo hi, crtHi_residues lo hi⟩, fun u => ⟨crtLo_rconj u, crtHi_rconj u⟩⟩

end Sys2Proof.Machine

/-! ## O53 to O55: reset, and the draws of ANY

Reset lists nothing in a memory, so every unit reads as the draw of reset. A command leaves no new ANY but in its arena, where
the draw is the next one; `LeavesNoOldAny` says so, and the ways a command can end keep it. -/

namespace Sys2Proof.Machine

/-! ### Reset -/

/-- Settles O53: nothing is listed and the fault registers are 0, so the sizes are all the invariant asks for. -/
theorem resetHasTheInvariant : Obligations.ResetHasTheInvariant := by
  have hreset : ∀ c : Config, c.wf = true → (State.resetOf c).inv = true := fun c hc =>
    State.inv_iff_sound.2 ⟨hc, Memory.sound_nil _ _, Memory.sound_nil _ _, Memory.sound_nil _ _, Nat.le_refl 1, rfl⟩
  exact ⟨hreset, hreset Config.default (by decide)⟩

/-- Settles O54: the registers are those of `State.resetOf`, and a unit that is not listed holds ANY. -/
theorem resetLeavesTheResetState : Obligations.ResetLeavesTheResetState :=
  ⟨fun _ => ⟨rfl, rfl, rfl, rfl, rfl, rfl, rfl, rfl, State.irq_of_irqEn_zero rfl, rfl,
      fun _ => ⟨0, rfl⟩, fun _ => ⟨0, rfl⟩, fun _ => ⟨0, rfl⟩⟩,
    rfl, rfl, rfl, rfl, rfl, rfl, rfl, rfl, State.irq_of_irqEn_zero rfl,
    fun _ => ⟨0, rfl⟩, fun _ => ⟨0, rfl⟩, fun _ => ⟨0, rfl⟩⟩

/-! ### The draws of a step -/

section

variable {s t : State}

/-- From `s` to `t` the draw counter does not fall, an ANY that is new in XM is of the next draw, which the counter has then
passed, and none is new in CM (log 3). -/
structure LeavesNoOldAny (s t : State) : Prop where
  draws : s.draws ≤ t.draws
  xm : 1 ≤ s.draws → ∀ e k, t.xm.get e = .any k → s.xm.get e = .any k ∨ (k = s.draws ∧ s.draws < t.draws)
  cm : ∀ w k, t.cm.get w = .any k → s.cm.get w = .any k

theorem LeavesNoOldAny.of_same (hxm : t.xm = s.xm) (hcm : t.cm = s.cm) (hdraws : t.draws = s.draws) : LeavesNoOldAny s t :=
  ⟨hdraws.ge, fun _ _ _ h => .inl (hxm ▸ h), fun _ _ h => hcm ▸ h⟩

/-- A block write leaves values in its range and every other unit as it was. -/
theorem Memory.get_of_get_writeFrom_any {α : Type} {m : Memory α} {base : Nat} {vs : List α} {a k : Nat}
    (h : (m.writeFrom base vs).get a = .any k) : m.get a = .any k := by
  rw [Memory.get_writeFrom] at h
  split at h
  · cases h
  · exact h

/-- The clobber leaves ANY of the next draw in the arena, and counts it (R46). -/
theorem LeavesNoOldAny.clobberArena (h : LeavesNoOldAny s t) (hdraws : t.draws = s.draws) (need : Nat) :
    LeavesNoOldAny s (t.clobberArena need) := by
  have hcount := t.clobberArena_draws need
  rcases Nat.eq_zero_or_pos need with rfl | hpos
  · exact h
  rw [if_neg (by omega)] at hcount
  refine ⟨by omega, fun hone e k hk => ?_, fun w k hk => h.cm w k (by rwa [t.clobberArena_cm] at hk)⟩
  by_cases hin : t.arenaBase.toNat ≤ e ∧ e < t.arenaBase.toNat + need
  · rw [t.get_clobberArena_in (by omega) hin, Held.any.injEq] at hk
    exact .inr ⟨by omega, by omega⟩
  · rw [t.clobberArena_pos hpos, State.bumpDraws_xm, State.setXm_xm, Memory.get_clobber_out _ _ _ _ hin] at hk
    obtain hold | ⟨-, hlt⟩ := h.xm hone e k hk
    · exact .inl hold
    · omega

theorem LeavesNoOldAny.advance (h : LeavesNoOldAny s t) : LeavesNoOldAny s t.advance :=
  ⟨h.draws, h.xm, h.cm⟩

theorem LeavesNoOldAny.writeXm (base : Nat) (vs : List Elt) (need : Nat) :
    LeavesNoOldAny s ((s.writeXm base vs).clobberArena need).advance := by
  have hwrite : LeavesNoOldAny s (s.writeXm base vs) :=
    ⟨Nat.le_refl _, fun _ _ _ h => .inl (Memory.get_of_get_writeFrom_any h), fun _ _ h => h⟩
  exact (hwrite.clobberArena rfl need).advance

theorem LeavesNoOldAny.writeCm (base : Nat) (vs : List Word) (need : Nat) :
    LeavesNoOldAny s ((s.writeCm base vs).clobberArena need).advance := by
  have hwrite : LeavesNoOldAny s (s.writeCm base vs) :=
    ⟨Nat.le_refl _, fun _ _ _ h => .inl h, fun _ _ h => Memory.get_of_get_writeFrom_any h⟩
  exact (hwrite.clobberArena rfl need).advance

theorem LeavesNoOldAny.of_command {w0 : Word} {check : Option FaultCode} {effect : State → State}
    (h : runCommand w0 check effect s = .next t) (heffect : LeavesNoOldAny s (effect s).advance) : LeavesNoOldAny s t := by
  obtain ⟨c, -, rfl⟩ | ⟨-, rfl⟩ := runCommand_cases h
  · exact .of_same rfl rfl rfl
  · exact heffect

/-- Every command draws ANY for its arena alone. -/
theorem LeavesNoOldAny.of_exec {i : Instr} (h : exec i s = .next t) : LeavesNoOldAny s t := by
  cases i with
    simp only [exec, execNop, execHalt, execEadd, execEsub, execEneg, execEmul, execEconj, execEemb, execEsc3, execTwid,
      execFft3, execIfft3, execMulmod, execCconv, execPmul] at h
  | nop | halt => exact .of_command h (.of_same rfl rfl rfl)
  | eadd | esub | emul | eneg | econj | esc3 | eemb | twid => exact .of_command h (.writeXm _ _ 0)
  | fft3 | ifft3 | mulmod => exact .of_command h (.writeXm _ _ _)
  | cconv | pmul => exact .of_command h (.writeCm _ _ _)

theorem LeavesNoOldAny.of_step (h : step s = .next t) : LeavesNoOldAny s t := by
  obtain ⟨-, rfl⟩ | ⟨-, c, w0, rfl⟩ | ⟨-, i, -, hexec⟩ := step_cases h
  · exact .of_same rfl rfl rfl
  · exact .of_same rfl rfl rfl
  · exact .of_exec hexec

/-- A step stays in its epoch and keeps the parameters. -/
theorem step_epoch_cfg (h : step s = .next t) : t.epoch = s.epoch ∧ t.cfg = s.cfg := by
  obtain ⟨-, rfl⟩ | ⟨-, c, w0, rfl⟩ | ⟨-, i, -, hexec⟩ := step_cases h
  · exact ⟨rfl, rfl⟩
  · exact ⟨rfl, rfl⟩
  · obtain ⟨hcfg, -, -, -, -, hepoch, -⟩ := noCommandWritesWhatItMayNot i s t hexec
    exact ⟨hepoch, hcfg⟩

/-! ### The draws of the host -/

/-- From `s` to `t` the epoch and the parameters stay, and the draw counter does not fall. -/
structure KeepsEpoch (s t : State) : Prop where
  epoch : t.epoch = s.epoch
  cfg : t.cfg = s.cfg
  draws : s.draws ≤ t.draws

theorem KeepsEpoch.refl (s : State) : KeepsEpoch s s := ⟨rfl, rfl, Nat.le_refl _⟩

theorem KeepsEpoch.trans {u : State} (hst : KeepsEpoch s t) (htu : KeepsEpoch t u) : KeepsEpoch s u :=
  ⟨htu.epoch.trans hst.epoch, htu.cfg.trans hst.cfg, hst.draws.trans htu.draws⟩

theorem KeepsEpoch.startRun (s : State) : KeepsEpoch s (startRun s) := by
  obtain ⟨-, heq⟩ | ⟨-, heq⟩ := startRun_cases s <;> rw [heq]
  · exact ⟨rfl, rfl, Nat.le_refl _⟩
  · exact .refl s

theorem KeepsEpoch.clearFault (s : State) : KeepsEpoch s (clearFault s) := by
  obtain ⟨-, heq⟩ | ⟨-, heq⟩ := clearFault_cases s <;> rw [heq]
  · exact ⟨rfl, rfl, Nat.le_refl _⟩
  · exact .refl s

theorem KeepsEpoch.ctrlWrite (v : Word) (s : State) : KeepsEpoch s (ctrlWrite v s) := by
  cases hstart : v.getLsbD 0 <;> cases hclear : v.getLsbD 1
  case false.false => rw [ctrlWrite_neither hstart hclear]; exact .refl s
  case true.false => rw [ctrlWrite_start hstart hclear]; exact .startRun s
  case false.true => rw [ctrlWrite_clear hstart hclear]; exact .clearFault s
  case true.true => rw [ctrlWrite_both hstart hclear]; exact (KeepsEpoch.clearFault s).trans (.startRun _)

theorem KeepsEpoch.unlessRunning {f : State → State} (hf : KeepsEpoch s (f s)) : KeepsEpoch s (unlessRunning s f) := by
  obtain ⟨-, heq⟩ | ⟨-, heq⟩ := unlessRunning_cases s f <;> rw [heq]
  · exact .refl s
  · exact hf

theorem KeepsEpoch.csrWrite (off : Nat) (v : Word) (s : State) : KeepsEpoch s (csrWrite off v s) := by
  unfold Machine.csrWrite
  split
  · exact .ctrlWrite v s
  · exact .unlessRunning ⟨rfl, rfl, Nat.le_refl _⟩
  · exact .unlessRunning ⟨rfl, rfl, Nat.le_refl _⟩
  · exact .unlessRunning ⟨rfl, rfl, Nat.le_refl _⟩
  · exact ⟨rfl, rfl, Nat.le_refl _⟩
  · exact .refl s

theorem KeepsEpoch.memSetWord (r : Region) (off : Nat) (v : Word) (s : State) : KeepsEpoch s (memSetWord r off v s) := by
  cases r with
  | csr | km | cm | xm => exact ⟨rfl, rfl, Nat.le_refl _⟩

theorem KeepsEpoch.hostWrite (r : Region) (off : Nat) (v : Word) (s : State) : KeepsEpoch s (hostWrite r off v s) := by
  by_cases hr : r = .csr
  · subst hr
    exact .csrWrite off v s
  · rw [hostWrite_memory hr]
    split
    · exact .memSetWord r off v s
    · exact .refl s

/-- Each act but reset stays in its epoch. -/
theorem KeepsEpoch.hostAct {a : HostAct} (ha : a ≠ .reset) (s : State) : KeepsEpoch s (hostAct a s) := by
  cases a with
  | write r off v => exact .hostWrite r off v s
  | read r off =>
    rw [Machine.hostAct]
    obtain heq | heq := hostRead_state r off s <;> rw [heq]
    · exact .refl s
    · exact ⟨rfl, rfl, Nat.le_succ _⟩
  | reset => exact absurd rfl ha

end

/-- Settles O55: `LeavesNoOldAny` for a step, `KeepsEpoch` for an act of the host; after reset no memory lists anything. -/
theorem drawsOfAnyAreNeverReused : Obligations.DrawsOfAnyAreNeverReused := by
  refine ⟨fun s t h => ?_, fun a s ha => ?_, fun s => ?_⟩
  · obtain ⟨hepoch, hcfg⟩ := step_epoch_cfg h
    obtain ⟨hdraws, hxm, hcm⟩ := LeavesNoOldAny.of_step h
    exact ⟨hepoch, hcfg, hdraws, hxm, hcm⟩
  · obtain ⟨hepoch, hcfg, hdraws⟩ := KeepsEpoch.hostAct ha s
    exact ⟨hepoch, hcfg, hdraws⟩
  · exact ⟨rfl, rfl, fun _ => rfl, fun _ => rfl, fun _ => rfl, Nat.one_pos⟩

end Sys2Proof.Machine

/-! ## O22: the worked encodings -/

namespace Sys2Proof

/-- Settles O22, by evaluation of the decoder. -/
theorem workedEncodingsDecode : Obligations.WorkedEncodingsDecode :=
  ⟨by decide, by decide, by decide⟩

end Sys2Proof

/-! ## O8 and O17: digit reversal, and the splits

`rev3` takes the lowest digit to the highest place (its recursion) and the highest to the lowest (`rev3_add_mul_pow`), so twice
is the identity. The splits of `3^k` are powers of three whose exponents are known (`mUp_pow`, `mDn_pow`), so what is said of
them is said of exponents. -/

namespace Sys2Proof.Machine

/-! ### Digit reversal -/

theorem rev3_zero (k : Nat) : rev3 0 k = 0 := rfl

theorem rev3_succ (L k : Nat) : rev3 (L + 1) k = (k % 3) * 3 ^ L + rev3 L (k / 3) := rfl

theorem rev3_lt (L k : Nat) : rev3 L k < 3 ^ L := by
  induction L generalizing k with
  | zero => exact Nat.one_pos
  | succ L ih =>
    have hlow := ih (k / 3)
    have htop : k % 3 * 3 ^ L ≤ 2 * 3 ^ L := Nat.mul_le_mul_right _ (by omega)
    rw [rev3_succ, pow_succ]
    omega

/-- The highest digit goes to the lowest place. -/
theorem rev3_add_mul_pow (L : Nat) {c k : Nat} (hc : c < 3) (hk : k < 3 ^ L) :
    rev3 (L + 1) (c * 3 ^ L + k) = 3 * rev3 L k + c := by
  induction L generalizing k with
  | zero =>
    obtain rfl : k = 0 := by simpa using hk
    simp [rev3, Nat.mod_eq_of_lt hc]
  | succ L ih =>
    have hsplit : c * 3 ^ (L + 1) + k = 3 * (c * 3 ^ L) + k := by ring
    have hmod : (c * 3 ^ (L + 1) + k) % 3 = k % 3 := by rw [hsplit, Nat.mul_add_mod]
    have hdiv : (c * 3 ^ (L + 1) + k) / 3 = c * 3 ^ L + k / 3 := by rw [hsplit, Nat.mul_add_div (by decide)]
    have hlow : k / 3 < 3 ^ L := Nat.div_lt_of_lt_mul (by rwa [← pow_succ'])
    rw [rev3_succ, hmod, hdiv, ih hlow, rev3_succ L k]
    ring

theorem rev3_rev3 {L k : Nat} (hk : k < 3 ^ L) : rev3 L (rev3 L k) = k := by
  induction L generalizing k with
  | zero =>
    obtain rfl : k = 0 := by simpa using hk
    rfl
  | succ L ih =>
    have hlow : k / 3 < 3 ^ L := Nat.div_lt_of_lt_mul (by rwa [← pow_succ'])
    rw [rev3_succ L k, rev3_add_mul_pow L (Nat.mod_lt k (by decide)) (rev3_lt L _), ih hlow, Nat.div_add_mod]

/-- Digit `i` of `k` stands at the mirrored place. -/
theorem rev3_eq_sum (L k : Nat) : rev3 L k = ((List.range L).map fun i => (k / 3 ^ i % 3) * 3 ^ (L - 1 - i)).sum := by
  induction L generalizing k with
  | zero => rfl
  | succ L ih =>
    have hshift : ∀ i, k / 3 / 3 ^ i = k / 3 ^ (i + 1) := fun i => by rw [Nat.div_div_eq_div_mul, pow_succ']
    have hplace : ∀ i, L - 1 - i = L - (i + 1) := fun i => by omega
    rw [rev3_succ, ih, List.range_succ_eq_map, List.map_cons, List.sum_cons, List.map_map]
    simp only [hshift, Function.comp_def, Nat.succ_eq_add_one, hplace, pow_zero, Nat.div_one, Nat.add_sub_cancel, Nat.sub_zero]

/-- Settles O8. -/
theorem digitReversalIsAnInvolution : Obligations.DigitReversalIsAnInvolution :=
  ⟨fun L k hk => ⟨rev3_lt L k, rev3_rev3 hk, rev3_eq_sum L k⟩, rev3_zero, rev3_succ, by decide⟩

/-! ### The splits -/

theorem three_pow_le_iff {i j : Nat} : 3 ^ i ≤ 3 ^ j ↔ i ≤ j := Nat.pow_le_pow_iff_right (by decide)

theorem three_pow_le_sq_iff {i j : Nat} : 3 ^ i ≤ 3 ^ j * 3 ^ j ↔ i ≤ j + j := by rw [← pow_add, three_pow_le_iff]

theorem sq_le_three_pow_iff {i j : Nat} : 3 ^ j * 3 ^ j ≤ 3 ^ i ↔ j + j ≤ i := by rw [← pow_add, three_pow_le_iff]

/-- The number of blocks under the multiplier's split. -/
theorem pow_div_mUp (k : Nat) : 3 ^ k / mUp (3 ^ k) = 3 ^ (k / 2) := by
  rw [mUp_pow, Nat.pow_div (by omega) (by decide)]
  congr 1
  omega

/-- The number of blocks under the driver's split. -/
theorem pow_div_mDn (k : Nat) : 3 ^ k / mDn (3 ^ k) = 3 ^ (k - k / 2) := by
  rw [mDn_pow, Nat.pow_div (by omega) (by decide)]

/-- Settles O17: on exponents, `(k + 1) / 2` is the least `j` with `k ≤ 2j`, and `k / 2` the greatest with `2j ≤ k`. -/
theorem splitsAndPaddedSizeAreAsTheRulesSay : Obligations.SplitsAndPaddedSizeAreAsTheRulesSay := by
  refine ⟨fun k => ⟨⟨_, mUp_pow k⟩, ?_, fun j hj => ?_, ?_⟩, fun k => ⟨⟨_, mDn_pow k⟩, ?_, fun j hj => ?_, ?_⟩,
    fun v _ => ⟨⟨_, rfl⟩, le_pow3Ceil v, fun j hj => ?_⟩, by decide, by decide, by decide⟩
  · rw [mUp_pow, three_pow_le_sq_iff]
    omega
  · rw [three_pow_le_sq_iff] at hj
    rw [mUp_pow, three_pow_le_iff]
    omega
  · rw [pow_div_mUp, mUp_pow]
    exact pow_dvd_pow 3 (by omega)
  · rw [mDn_pow, sq_le_three_pow_iff]
    omega
  · rw [sq_le_three_pow_iff] at hj
    rw [mDn_pow, three_pow_le_iff]
    omega
  · rw [pow_div_mDn, mDn_pow, ← pow_succ']
    split
    · congr 1; omega
    · congr 1; omega
  · exact three_pow_le_iff.2 (Nat.clog_le_of_le_pow hj)

end Sys2Proof.Machine

/-! ## O12: the base case

Step `(i, j)` of the loop of R112 changes the one coefficient that `i + j` folds back to. For each `i` and each coefficient `k`
exactly one `j` does so, `schoolIndex n i k`, and what it adds is the term of the closed form. -/

namespace Sys2Proof.Machine

/-- The `j` whose product with `a[i]` lands at coefficient `k`, directly or with a wrap (R112). -/
def schoolIndex (n i k : Nat) : Nat := if i ≤ k then k - i else k + n - i

/-- The term of `a[i]` in coefficient `k` of the closed form (R112). -/
def schoolTerm (a b : Block) (n k i : Nat) : Elt :=
  if i ≤ k then rmul (a.at i) (b.at (k - i)) else rwpow (rmul (a.at i) (b.at (k + n - i))) 1

theorem schoolIndex_lt {n i k : Nat} (hi : i < n) (hk : k < n) : schoolIndex n i k < n := by
  unfold schoolIndex
  split <;> omega

theorem school_at (a b : Block) {k : Nat} (hk : k < a.length) :
    (school a b).at k = rsum ((List.range a.length).map (schoolTerm a b a.length k)) := by
  rw [Block.at, List.getD_eq_getElem _ _ (by simpa using hk)]
  simp only [school, List.getElem_map, List.getElem_range]
  rfl

/-! ### The loop -/

/-- A coefficient after another has been stored. -/
theorem Block.at_set (p : Block) {j : Nat} (hj : j < p.length) (u : Elt) (k : Nat) :
    Block.at (p.set j u) k = if j = k then u else p.at k := by
  rw [Block.at, List.getD_eq_getElem?_getD, List.getElem?_set]
  split
  case isTrue h => subst h; rfl
  case isFalse => rw [Block.at, List.getD_eq_getElem?_getD]

/-- What one step of the loop does to coefficient `k`. -/
theorem schoolAcc_at (a b : Block) {n i j k : Nat} {out : Block} (hout : out.length = n) (hi : i < n) (hj : j < n) (hk : k < n) :
    Block.at (schoolAcc a b n i out j) k =
      if schoolIndex n i k = j then radd (out.at k) (schoolTerm a b n k i) else out.at k := by
  unfold schoolAcc schoolIndex schoolTerm
  split
  case isTrue hlt =>
    rw [Block.at_set _ (by omega)]
    by_cases hik : i ≤ k
    · simp only [hik, if_true]
      by_cases hat : i + j = k
      · subst hat; simp
      · rw [if_neg hat, if_neg (by omega)]
    · rw [if_neg (by omega), if_neg (by rw [if_neg hik]; omega)]
  case isFalse hge =>
    rw [Block.at_set _ (by omega)]
    by_cases hik : i ≤ k
    · rw [if_neg (by omega), if_neg (by rw [if_pos hik]; omega)]
    · simp only [hik, if_false]
      by_cases hat : i + j - n = k
      · rw [if_pos hat, if_pos (by omega), hat, show k + n - i = j by omega]
      · rw [if_neg hat, if_neg (by omega)]


theorem schoolAcc_length (a b : Block) (n i : Nat) (out : Block) (j : Nat) :
    (schoolAcc a b n i out j).length = out.length := by
  unfold schoolAcc
  split <;> exact List.length_set

/-- `out` after the first `J` steps of the pass for `i`. -/
def schoolPass (a b : Block) (n i J : Nat) (out : Block) : Block := (List.range J).foldl (schoolAcc a b n i) out

theorem schoolPass_succ (a b : Block) (n i J : Nat) (out : Block) :
    schoolPass a b n i (J + 1) out = schoolAcc a b n i (schoolPass a b n i J out) J := by
  rw [schoolPass, List.range_succ, List.foldl_append]
  rfl

theorem schoolPass_length (a b : Block) (n i J : Nat) (out : Block) : (schoolPass a b n i J out).length = out.length := by
  induction J with
  | zero => rfl
  | succ J ih => rw [schoolPass_succ, schoolAcc_length, ih]

theorem schoolPass_at (a b : Block) {n i k J : Nat} {out : Block} (hout : out.length = n) (hi : i < n) (hk : k < n)
    (hJ : J ≤ n) : Block.at (schoolPass a b n i J out) k =
      if schoolIndex n i k < J then radd (out.at k) (schoolTerm a b n k i) else out.at k := by
  induction J with
  | zero => rfl
  | succ J ih =>
    rw [schoolPass_succ, schoolAcc_at a b (by rw [schoolPass_length, hout]) hi (by omega) hk, ih (by omega)]
    split
    case isTrue heq => rw [if_neg (by omega), if_pos (by omega)]
    case isFalse hne => simp only [show schoolIndex n i k < J + 1 ↔ schoolIndex n i k < J by omega]

/-- `out` after the passes for the first `I` elements of `a`. -/
def schoolPasses (a b : Block) (n I : Nat) : Block :=
  (List.range I).foldl (fun out i => schoolPass a b n i n out) (List.replicate n rzero)

theorem schoolPasses_succ (a b : Block) (n I : Nat) :
    schoolPasses a b n (I + 1) = schoolPass a b n I n (schoolPasses a b n I) := by
  rw [schoolPasses, List.range_succ, List.foldl_append]
  rfl

theorem schoolPasses_length (a b : Block) (n I : Nat) : (schoolPasses a b n I).length = n := by
  induction I with
  | zero => exact List.length_replicate
  | succ I ih => rw [schoolPasses_succ, schoolPass_length, ih]

theorem schoolPasses_at (a b : Block) {n k I : Nat} (hk : k < n) (hI : I ≤ n) :
    Block.at (schoolPasses a b n I) k = rsum ((List.range I).map (schoolTerm a b n k)) := by
  induction I with
  | zero => simp [schoolPasses, Block.at, hk, rsum]
  | succ I ih =>
    rw [schoolPasses_succ, schoolPass_at a b (schoolPasses_length a b n I) (by omega) hk (Nat.le_refl n),
      if_pos (schoolIndex_lt (by omega) hk), ih (by omega), ← toExt_inj]
    simp [List.range_succ]

theorem schoolLoop_eq_schoolPasses (a b : Block) : schoolLoop a b = schoolPasses a b a.length a.length := rfl

theorem schoolLoop_eq_school (a b : Block) : schoolLoop a b = school a b := by
  rw [schoolLoop_eq_schoolPasses]
  refine Block.ext_at (by rw [schoolPasses_length, school_length]) fun k hk => ?_
  rw [schoolPasses_length] at hk
  rw [schoolPasses_at a b hk (Nat.le_refl _), school_at a b hk]

/-- Settles O12: after the passes for all of `a` every coefficient is that of the closed form. -/
theorem schoolbookLoopHasItsClosedForm : Obligations.SchoolbookLoopHasItsClosedForm := by
  refine ⟨fun a b _ => schoolLoop_eq_school a b, fun u v => ?_⟩
  have hone : school [u] [v] = [radd (rmul u v) rzero] := rfl
  rw [schoolLoop_eq_school, hone, radd_rzero]

end Sys2Proof.Machine

/-! ## Products modulo `x^n − c`

The products of R112, R119, R137 and R140 are one thing over different rings: the product of two sequences of `n` coefficients
modulo `x^n − c`, here `wrapMul`. In a ring with an `x` for which `x^n = c` it evaluates to the product of the values
(`aeval_wrapMul`), and in `R[x]/(x^n − c)` the value of a sequence determines it (`eq_of_aeval_root_eq`). That is how every
algorithm below is shown to compute what it should: not coefficient by coefficient, but by its value. -/

namespace Sys2Proof.Machine

open Polynomial

/-! ### Sequences as polynomials -/

section

variable {R S : Type*} [CommRing R] [CommRing S]

/-- The polynomial with the coefficients `v 0, …, v (n − 1)`. -/
noncomputable def seqPoly (n : Nat) (v : Nat → R) : R[X] := ∑ i ∈ Finset.range n, monomial i (v i)

theorem coeff_seqPoly (n : Nat) (v : Nat → R) (k : Nat) : (seqPoly n v).coeff k = if k < n then v k else 0 := by
  simp [seqPoly, coeff_monomial]

theorem seqPoly_congr {n : Nat} {u v : Nat → R} (h : ∀ i, i < n → u i = v i) : seqPoly n u = seqPoly n v :=
  Finset.sum_congr rfl fun i hi => by rw [h i (Finset.mem_range.1 hi)]

theorem seqPoly_add (n : Nat) (u v : Nat → R) : seqPoly n (fun i => u i + v i) = seqPoly n u + seqPoly n v := by
  simp [seqPoly, Finset.sum_add_distrib]

theorem seqPoly_sum (n r : Nat) (v : Nat → Nat → R) :
    seqPoly n (fun i => ∑ j ∈ Finset.range r, v j i) = ∑ j ∈ Finset.range r, seqPoly n (v j) := by
  simp only [seqPoly, map_sum]
  exact Finset.sum_comm

theorem seqPoly_smul (n : Nat) (d : R) (u : Nat → R) : seqPoly n (fun i => d * u i) = C d * seqPoly n u := by
  simp [seqPoly, Finset.mul_sum, C_mul_monomial]

/-- A polynomial of degree below `n` is that of its own first `n` coefficients. -/
theorem seqPoly_coeff_self {n : Nat} {f : R[X]} (hf : ∀ k, n ≤ k → f.coeff k = 0) : seqPoly n f.coeff = f := by
  ext k
  rw [coeff_seqPoly]
  split
  · rfl
  · exact (hf k (by omega)).symm

theorem map_seqPoly (φ : R →+* S) (n : Nat) (v : Nat → R) : (seqPoly n v).map φ = seqPoly n fun i => φ (v i) := by
  simp [seqPoly, Polynomial.map_sum]

theorem aeval_seqPoly [Algebra R S] (x : S) (n : Nat) (v : Nat → R) :
    aeval x (seqPoly n v) = ∑ i ∈ Finset.range n, algebraMap R S (v i) * x ^ i := by
  simp [seqPoly, aeval_monomial]

/-- A sequence behind another. -/
theorem aeval_seqPoly_append [Algebra R S] (x : S) (n n' : Nat) (v : Nat → R) :
    aeval x (seqPoly (n + n') v) = aeval x (seqPoly n v) + x ^ n * aeval x (seqPoly n' fun i => v (n + i)) := by
  simp only [aeval_seqPoly, Finset.sum_range_add, Finset.mul_sum, pow_add]
  congr 1
  exact Finset.sum_congr rfl fun i _ => by ring

/-- A sequence cut into `r` blocks of `m` is a polynomial in `x^m` whose coefficients are the values of the blocks (R33). -/
theorem aeval_seqPoly_blocks [Algebra R S] (x : S) (r m : Nat) (v : Nat → R) :
    aeval x (seqPoly (r * m) v) = aeval (x ^ m) (seqPoly r fun j => aeval x (seqPoly m fun i => v (j * m + i))) := by
  induction r with
  | zero => simp [seqPoly]
  | succ r ih =>
    have hlast := aeval_seqPoly_append (x ^ m) r 1 fun j => aeval x (seqPoly m fun i => v (j * m + i))
    rw [Nat.succ_mul, aeval_seqPoly_append, ih, hlast, ← pow_mul, Nat.mul_comm m r]
    simp [seqPoly]

/-! ### The product modulo `x^n − c` -/

/-- Coefficient `k` of the product of two sequences of length `n` modulo `x^n − c`: what lies at `k + n` folds back with a
factor `c`. -/
noncomputable def wrapMul (c : R) (n : Nat) (u v : Nat → R) (k : Nat) : R :=
  (seqPoly n u * seqPoly n v).coeff k + c * (seqPoly n u * seqPoly n v).coeff (k + n)

theorem coeff_mul_seqPoly_of_ge (n : Nat) (u v : Nat → R) {k : Nat} (hk : n + n ≤ k + 1) :
    (seqPoly n u * seqPoly n v).coeff k = 0 := by
  rw [coeff_mul]
  refine Finset.sum_eq_zero fun p hp => ?_
  have hsum : p.1 + p.2 = k := Finset.HasAntidiagonal.mem_antidiagonal.1 hp
  rw [coeff_seqPoly, coeff_seqPoly]
  by_cases h : p.1 < n
  · rw [if_neg (show ¬ p.2 < n by omega), mul_zero]
  · rw [if_neg h, zero_mul]

/-- Folding the upper half of a polynomial back keeps its value where `x^n = c`. -/
theorem aeval_fold [Algebra R S] {x : S} {c : R} {n : Nat} (hx : x ^ n = algebraMap R S c) {f : R[X]}
    (hf : ∀ k, n + n ≤ k → f.coeff k = 0) :
    aeval x (seqPoly n fun k => f.coeff k + c * f.coeff (k + n)) = aeval x f := by
  have hsplit : aeval x f = aeval x (seqPoly n f.coeff) + x ^ n * aeval x (seqPoly n fun i => f.coeff (n + i)) := by
    rw [← aeval_seqPoly_append, seqPoly_coeff_self hf]
  rw [hsplit, hx]
  simp only [aeval_seqPoly, Finset.mul_sum, ← Finset.sum_add_distrib, map_add, map_mul]
  exact Finset.sum_congr rfl fun i _ => by rw [Nat.add_comm n i]; ring

/-- The product modulo `x^n − c` has the product's value where `x^n = c`. -/
theorem aeval_wrapMul [Algebra R S] {x : S} {c : R} {n : Nat} (hx : x ^ n = algebraMap R S c) (u v : Nat → R) :
    aeval x (seqPoly n (wrapMul c n u v)) = aeval x (seqPoly n u) * aeval x (seqPoly n v) := by
  rw [← map_mul]
  exact aeval_fold hx fun k hk => coeff_mul_seqPoly_of_ge n u v (by omega)

theorem map_wrapMul (φ : R →+* S) (c : R) (n : Nat) (u v : Nat → R) (k : Nat) :
    φ (wrapMul c n u v k) = wrapMul (φ c) n (fun i => φ (u i)) (fun i => φ (v i)) k := by
  simp only [wrapMul, map_add, map_mul, ← map_seqPoly, ← Polynomial.map_mul, coeff_map]

theorem wrapMul_comm (c : R) (n : Nat) (u v : Nat → R) : wrapMul c n u v = wrapMul c n v u := by
  funext k
  rw [wrapMul, wrapMul, mul_comm (seqPoly n u)]

theorem wrapMul_add_left (c : R) (n : Nat) (u u' v : Nat → R) (k : Nat) :
    wrapMul c n (fun i => u i + u' i) v k = wrapMul c n u v k + wrapMul c n u' v k := by
  simp only [wrapMul, seqPoly_add, add_mul, coeff_add]
  ring

theorem wrapMul_smul_left (c d : R) (n : Nat) (u v : Nat → R) (k : Nat) :
    wrapMul c n (fun i => d * u i) v k = d * wrapMul c n u v k := by
  simp only [wrapMul, seqPoly_smul, mul_assoc, coeff_C_mul]
  ring

/-- `1, 0, …, 0` is the unit. -/
theorem wrapMul_one (c : R) {n k : Nat} (hk : k < n) (u : Nat → R) :
    wrapMul c n u (fun i => if i = 0 then 1 else 0) k = u k := by
  have hone : seqPoly n (fun i => if i = 0 then (1 : R) else 0) = 1 := by
    ext i
    rw [coeff_seqPoly, coeff_one]
    split
    · rfl
    · rw [if_neg (by omega)]
  rw [wrapMul, hone, mul_one, coeff_seqPoly, coeff_seqPoly, if_pos hk, if_neg (by omega), mul_zero, add_zero]

/-! ### Its coefficients as sums -/

theorem coeff_mul_eq_sum (f g : R[X]) (k : Nat) :
    (f * g).coeff k = ∑ i ∈ Finset.range (k + 1), f.coeff i * g.coeff (k - i) := by
  rw [coeff_mul, Finset.Nat.sum_antidiagonal_eq_sum_range_succ fun i j => f.coeff i * g.coeff j]

theorem coeff_mul_seqPoly {n k : Nat} (hk : k < n) (u v : Nat → R) :
    (seqPoly n u * seqPoly n v).coeff k = ∑ i ∈ Finset.range (k + 1), u i * v (k - i) := by
  rw [coeff_mul_eq_sum]
  refine Finset.sum_congr rfl fun i hi => ?_
  have hi : i < k + 1 := Finset.mem_range.1 hi
  rw [coeff_seqPoly, coeff_seqPoly, if_pos (by omega), if_pos (by omega)]

/-- Of the products at `k + n` only those of indices `k + 1, …, n − 1` of `u` meet a coefficient of both. -/
theorem coeff_mul_seqPoly_add {n k : Nat} (hk : k < n) (u v : Nat → R) : (seqPoly n u * seqPoly n v).coeff (k + n) =
    ∑ i ∈ Finset.range (n - 1 - k), u (k + 1 + i) * v (n - 1 - i) := by
  have hlow : ∑ i ∈ Finset.range (k + 1), (seqPoly n u).coeff i * (seqPoly n v).coeff (k + n - i) = 0 :=
    Finset.sum_eq_zero fun i hi => by
      have hi : i < k + 1 := Finset.mem_range.1 hi
      rw [coeff_seqPoly n v, if_neg (by omega), mul_zero]
  have hhigh : ∑ i ∈ Finset.range (k + 1), (seqPoly n u).coeff (k + 1 + (n - 1 - k) + i) *
      (seqPoly n v).coeff (k + n - (k + 1 + (n - 1 - k) + i)) = 0 :=
    Finset.sum_eq_zero fun i _ => by rw [coeff_seqPoly, if_neg (by omega), zero_mul]
  rw [coeff_mul_eq_sum, show k + n + 1 = k + 1 + (n - 1 - k) + (k + 1) by omega, Finset.sum_range_add,
    Finset.sum_range_add, hlow, hhigh, zero_add, add_zero]
  refine Finset.sum_congr rfl fun i hi => ?_
  have hi : i < n - 1 - k := Finset.mem_range.1 hi
  rw [coeff_seqPoly, coeff_seqPoly, if_pos (by omega), if_pos (by omega), show k + n - (k + 1 + i) = n - 1 - i by omega]

/-- The closed form of R119: both sums apart. -/
theorem wrapMul_eq_sum_add_sum (c : R) {n k : Nat} (hk : k < n) (u v : Nat → R) : wrapMul c n u v k =
    (∑ i ∈ Finset.range (k + 1), u i * v (k - i)) + c * ∑ i ∈ Finset.range (n - 1 - k), u (k + 1 + i) * v (n - 1 - i) := by
  rw [wrapMul, coeff_mul_seqPoly hk, coeff_mul_seqPoly_add hk]

/-- The closed form of R112: one term for each coefficient of `u`. -/
theorem wrapMul_eq_sum (c : R) {n k : Nat} (hk : k < n) (u v : Nat → R) : wrapMul c n u v k =
    ∑ i ∈ Finset.range n, if i ≤ k then u i * v (k - i) else c * (u i * v (k + n - i)) := by
  have hn : n = k + 1 + (n - 1 - k) := by omega
  rw [wrapMul_eq_sum_add_sum c hk, Finset.mul_sum]
  conv_rhs => rw [hn, Finset.sum_range_add]
  congr 1
  · refine Finset.sum_congr rfl fun i hi => ?_
    have hi : i < k + 1 := Finset.mem_range.1 hi
    rw [if_pos (by omega)]
  · refine Finset.sum_congr rfl fun i hi => ?_
    have hi : i < n - 1 - k := Finset.mem_range.1 hi
    rw [if_neg (by omega), show k + (k + 1 + (n - 1 - k)) - (k + 1 + i) = n - 1 - i by omega]

end

/-! ### The ring `R[x]/(x^n − c)` -/

section

variable {R : Type*} [CommRing R] (n : Nat) (c : R)

/-- `R[x]/(x^n − c)`. -/
abbrev WrapRing := AdjoinRoot (X ^ n - C c : R[X])

/-- The `x` of `R[x]/(x^n − c)`. -/
noncomputable abbrev wrapRoot : WrapRing n c := AdjoinRoot.root (X ^ n - C c)

theorem wrapRoot_pow : wrapRoot n c ^ n = algebraMap R (WrapRing n c) c := by
  have h := AdjoinRoot.eval₂_root (X ^ n - C c : R[X])
  rw [eval₂_sub, eval₂_X_pow, eval₂_C, sub_eq_zero] at h
  exact h

variable {n c}

/-- The value at `x` determines the first `n` coefficients. -/
theorem eq_of_aeval_root_eq {u v : Nat → R}
    (h : aeval (wrapRoot n c) (seqPoly n u) = aeval (wrapRoot n c) (seqPoly n v)) {i : Nat} (hi : i < n) : u i = v i := by
  nontriviality R
  have hdeg : (seqPoly n u - seqPoly n v).degree < (X ^ n - C c : R[X]).degree := by
    rw [degree_X_pow_sub_C (by omega), degree_lt_iff_coeff_zero]
    intro k hk
    rw [coeff_sub, coeff_seqPoly, coeff_seqPoly, if_neg (by omega), if_neg (by omega), sub_zero]
  have hdvd : (X ^ n - C c : R[X]) ∣ seqPoly n u - seqPoly n v := by
    rwa [AdjoinRoot.aeval_eq, AdjoinRoot.aeval_eq, AdjoinRoot.mk_eq_mk] at h
  have hzero : seqPoly n u - seqPoly n v = 0 := by
    by_contra hne
    exact (monic_X_pow_sub_C c (by omega)).not_dvd_of_degree_lt hne hdeg hdvd
  have hcoeff := congrArg (fun f => coeff f i) (sub_eq_zero.1 hzero)
  simpa only [coeff_seqPoly, if_pos hi] using hcoeff

/-- A sequence with the value of a product is the product. -/
theorem eq_wrapMul_of_aeval_root_eq {w u v : Nat → R}
    (h : aeval (wrapRoot n c) (seqPoly n w) = aeval (wrapRoot n c) (seqPoly n u) * aeval (wrapRoot n c) (seqPoly n v))
    {i : Nat} (hi : i < n) : w i = wrapMul c n u v i := by
  rw [← aeval_wrapMul (wrapRoot_pow n c)] at h
  exact eq_of_aeval_root_eq h hi

end

end Sys2Proof.Machine

/-! ## O6 and O7: the twiddle is multiplication by a power of `x`

A block of `m` elements stands for its value `blockVal x p = Σ p[i]·x^i` in any ring over `Ext` with an `x` for which `x^m = ω`.
There the twiddle by `t` is multiplication by `x^t`, and in `Ext[x]/(x^m − ω)` the value determines the block, so the laws of
shifts are laws of powers. -/

namespace Sys2Proof.Machine

open Polynomial
open scoped QuadraticAlgebra

/-! ### The contract on coefficients -/

/-- Coefficient `i` goes to index `(i + t) mod m`, with one ω for each wrap (R87). -/
theorem twiddle_at_add_mod (p : Block) (t : Nat) {i : Nat} (hi : i < p.length) :
    (twiddle p t).at ((i + t) % p.length) = rwpow (p.at i) ((i + t) / p.length) := by
  have hpos : 0 < p.length := by omega
  have hrest : t % p.length < p.length := Nat.mod_lt t hpos
  have hsplit : i + t = i + t % p.length + p.length * (t / p.length) := by
    have := Nat.mod_add_div t p.length
    omega
  rw [twiddle_at p t (Nat.mod_lt _ hpos), hsplit, Nat.add_mul_mod_self_left, Nat.add_mul_div_left _ _ hpos]
  by_cases hwrap : i + t % p.length < p.length
  · rw [Nat.mod_eq_of_lt hwrap, Nat.div_eq_of_lt hwrap, if_pos (by omega), Nat.add_sub_cancel, Nat.zero_add]
  · have hmod : (i + t % p.length) % p.length = i + t % p.length - p.length := by
      rw [Nat.mod_eq_sub_mod (by omega), Nat.mod_eq_of_lt (by omega)]
    have hdiv : (i + t % p.length) / p.length = 1 := Nat.div_eq_of_lt_le (by omega) (by omega)
    rw [hmod, hdiv, if_neg (by omega), Nat.add_comm 1]
    congr 2
    omega

/-- Settles O6. -/
theorem twiddleIsMultiplicationByAPowerOfX : Obligations.TwiddleIsMultiplicationByAPowerOfX :=
  fun p t _ _ => ⟨twiddle_length p t, fun _ hi => twiddle_at_add_mod p t hi⟩

/-! ### The coefficients of a block in the ring -/

/-- Coefficient `i` of a block, as a ring element. -/
def coeffs (p : Block) (i : Nat) : Ext := toExt (p.at i)

theorem coeffs_inj {p q : Block} (hlen : p.length = q.length) (h : ∀ i, i < p.length → coeffs p i = coeffs q i) : p = q :=
  Block.ext_at hlen fun i hi => toExt_inj.1 (h i hi)

theorem coeffs_badd {p q : Block} (h : p.length = q.length) (i : Nat) : coeffs (badd p q) i = coeffs p i + coeffs q i := by
  by_cases hi : i < p.length
  · have hq : i < q.length := by omega
    simp [coeffs, Block.at, badd, hi, hq]
  · have hq : ¬ i < q.length := by omega
    simp [coeffs, Block.at, badd, hi, hq]

/-- A ring function on every element of a block. -/
theorem coeffs_map {f : Elt → Elt} {g : Ext → Ext} (hf : ∀ u, toExt (f u) = g (toExt u)) (hg : g 0 = 0) (p : Block) (i : Nat) :
    coeffs (p.map f) i = g (coeffs p i) := by
  by_cases hi : i < p.length
  · simp [coeffs, Block.at, hi, hf]
  · simp [coeffs, Block.at, hi, hg]

theorem coeffs_map_rmul (c : Elt) (p : Block) (i : Nat) : coeffs (p.map (rmul c)) i = toExt c * coeffs p i :=
  coeffs_map (toExt_rmul c) (mul_zero _) p i

theorem coeffs_bwpow (p : Block) (q i : Nat) : coeffs (bwpow p q) i = ω ^ q * coeffs p i :=
  coeffs_map (fun u => by rw [toExt_rwpow, mul_comm]) (mul_zero _) p i

theorem coeffs_bconj (p : Block) (i : Nat) : coeffs (bconj p) i = starRingEnd Ext (coeffs p i) :=
  coeffs_map (g := starRingEnd Ext) toExt_rconj (map_zero _) p i

/-! ### The value of a block -/

section

variable {S : Type*} [CommRing S] [Algebra Ext S]

/-- The value of a block as a polynomial (R11). -/
noncomputable def blockVal (x : S) (p : Block) : S := aeval x (seqPoly p.length (coeffs p))

theorem blockVal_badd (x : S) {p q : Block} (h : p.length = q.length) : blockVal x (badd p q) = blockVal x p + blockVal x q := by
  simp only [blockVal, badd_length, ← h, Nat.min_self, seqPoly_congr fun i _ => coeffs_badd h i, seqPoly_add, map_add]

theorem blockVal_map_rmul (x : S) (c : Elt) (p : Block) :
    blockVal x (p.map (rmul c)) = algebraMap Ext S (toExt c) * blockVal x p := by
  simp only [blockVal, List.length_map, seqPoly_congr fun i _ => coeffs_map_rmul c p i, seqPoly_smul, map_mul, aeval_C]

theorem blockVal_bwpow (x : S) (p : Block) (q : Nat) : blockVal x (bwpow p q) = algebraMap Ext S ω ^ q * blockVal x p := by
  simp only [blockVal, bwpow_length, seqPoly_congr fun i _ => coeffs_bwpow p q i, seqPoly_smul, map_mul, aeval_C, map_pow]

/-- A sum over all residues does not depend on where it begins. -/
theorem sum_range_add_mod {M : Type*} [AddCommMonoid M] (f : Nat → M) (m t : Nat) :
    ∑ i ∈ Finset.range m, f ((i + t) % m) = ∑ i ∈ Finset.range m, f i := by
  induction t with
  | zero => exact Finset.sum_congr rfl fun i hi => by rw [Nat.add_zero, Nat.mod_eq_of_lt (Finset.mem_range.1 hi)]
  | succ t ih =>
    rw [← ih]
    cases m with
    | zero => rfl
    | succ m =>
      rw [Finset.sum_range_succ, Finset.sum_range_succ' fun i => f ((i + t) % (m + 1)),
        show m + (t + 1) = 0 + t + (m + 1) by omega, Nat.add_mod_right]
      exact congrArg (· + _) (Finset.sum_congr rfl fun i _ => by rw [Nat.add_right_comm i 1 t, Nat.add_assoc i t 1])

/-- The twiddle multiplies the value by `x^t` (R87). -/
theorem blockVal_twiddle {x : S} {p : Block} (hx : x ^ p.length = algebraMap Ext S ω) (t : Nat) :
    blockVal x (twiddle p t) = x ^ t * blockVal x p := by
  rw [blockVal, twiddle_length, aeval_seqPoly, ← sum_range_add_mod _ _ t, blockVal, aeval_seqPoly, Finset.mul_sum]
  refine Finset.sum_congr rfl fun i hi => ?_
  have hpow : x ^ (i + t) = algebraMap Ext S ω ^ ((i + t) / p.length) * x ^ ((i + t) % p.length) := by
    rw [← hx, ← pow_mul, ← pow_add, Nat.div_add_mod]
  calc algebraMap Ext S (coeffs (twiddle p t) ((i + t) % p.length)) * x ^ ((i + t) % p.length)
      = algebraMap Ext S (coeffs p i) * x ^ (i + t) := by
        rw [coeffs, twiddle_at_add_mod p t (Finset.mem_range.1 hi), toExt_rwpow, map_mul, map_pow, hpow, mul_assoc]
        rfl
    _ = x ^ t * (algebraMap Ext S (coeffs p i) * x ^ i) := by
        rw [pow_add]
        ring

/-- `x` has order `3m` (R89). -/
theorem pow_three_mul_eq_one {x : S} {m : Nat} (hx : x ^ m = algebraMap Ext S ω) : x ^ (3 * m) = 1 := by
  rw [Nat.mul_comm, pow_mul, hx, ← map_pow, omega_pow_three, map_one]

/-- Exponents of `x` count modulo `3m`. -/
theorem pow_mod_three_mul {x : S} {m : Nat} (hx : x ^ m = algebraMap Ext S ω) (e : Nat) : x ^ (e % (3 * m)) = x ^ e :=
  (pow_eq_pow_mod e (pow_three_mul_eq_one hx)).symm

end

/-- In `Ext[x]/(x^m − ω)` the value of a block of `m` elements determines it. -/
theorem eq_of_blockVal_eq {m : Nat} {p q : Block} (hp : p.length = m) (hq : q.length = m)
    (h : blockVal (wrapRoot m (ω : Ext)) p = blockVal (wrapRoot m (ω : Ext)) q) : p = q := by
  subst hp
  rw [blockVal, blockVal, hq] at h
  exact coeffs_inj hq.symm fun i hi => eq_of_aeval_root_eq h hi

/-- Settles O7: each law of shifts is a law of the powers of `x`, and the linearity is that of a product. -/
theorem twiddlesComposeAndAreLinear : Obligations.TwiddlesComposeAndAreLinear := by
  refine ⟨fun u t _ => ?_, fun p s t hp hs ht => ?_⟩
  · have hone : twiddle [u] (t * 1) = bwpow [u] t := twiddle_mul_length [u] t
    rwa [Nat.mul_one] at hone
  have hx := wrapRoot_pow p.length (ω : Ext)
  have hx3 := pow_three_mul_eq_one hx
  have hlen : ∀ q : Block, q.length = p.length → wrapRoot p.length (ω : Ext) ^ q.length = algebraMap Ext _ ω :=
    fun q hq => by rw [hq, hx]
  refine ⟨?_, ?_, ?_, twiddle_mul_length p 2, fun p' hp' => ?_, fun c => ?_⟩
  · refine eq_of_blockVal_eq (m := p.length) (by simp) (by simp) ?_
    rw [blockVal_twiddle (hlen _ (by simp)), blockVal_twiddle hx, blockVal_twiddle hx, pow_mod_three_mul hx, ← mul_assoc, ← pow_add,
      Nat.add_comm t s]
  · refine eq_of_blockVal_eq (m := p.length) (by simp) rfl ?_
    rw [blockVal_twiddle (hlen _ (by simp)), blockVal_twiddle hx, ← mul_assoc, ← pow_add, Nat.sub_add_cancel ht, hx3, one_mul]
  · simpa using twiddle_mul_length p 1
  · refine eq_of_blockVal_eq (m := p.length) (by simp [hp']) (by simp [hp']) ?_
    rw [blockVal_twiddle (hlen _ (by simp [hp'])), blockVal_badd _ hp'.symm, blockVal_badd _ (by simp [hp']),
      blockVal_twiddle hx, blockVal_twiddle (hlen _ hp'), mul_add]
  · refine eq_of_blockVal_eq (m := p.length) (by simp) (by simp) ?_
    rw [blockVal_twiddle (hlen _ (by simp)), blockVal_map_rmul, blockVal_map_rmul, blockVal_twiddle hx, mul_left_comm]

end Sys2Proof.Machine

/-! ## O9 to O11: the transforms

By the values of the blocks (`blockVal`), one level of the forward transform takes the `3h` values `b` to the three sequences
`(b_i + ω^c·b_(i+h) + ω^(2c)·b_(i+2h))·ζ^(c·i)` for `c = 0, 1, 2` (`blockVal_fftBranch`), and one level of the inverse transform
puts three sequences together again (`blockVal_ifftLevels_append`). The sum formulas follow by induction on the levels, because
the root `ζ` of a level has `ζ^h = ω` and `ζ³` is the root of the next; and the two levels undo each other up to a factor 3. -/

namespace Sys2Proof.Machine

open Polynomial
open scoped QuadraticAlgebra

/-! ### Lists of blocks -/

theorem blockAt_append_left {A : List Block} (B : List Block) {i : Nat} (hi : i < A.length) :
    blockAt (A ++ B) i = blockAt A i :=
  List.getD_append _ _ _ _ hi

theorem blockAt_append_right {A : List Block} (B : List Block) {h : Nat} (hA : A.length = h) (i : Nat) :
    blockAt (A ++ B) (h + i) = blockAt B i := by
  rw [blockAt, List.getD_append_right _ _ _ _ (by omega), hA, Nat.add_sub_cancel_left]
  rfl

theorem blockAt_map_range {r i : Nat} (hi : i < r) (f : Nat → Block) : blockAt ((List.range r).map f) i = f i := by
  rw [blockAt, List.getD_eq_getElem _ _ (by simpa using hi)]
  simp

theorem blockAt_map {B : List Block} {j : Nat} (hj : j < B.length) (f : Block → Block) : blockAt (B.map f) j = f (blockAt B j) := by
  simp [blockAt, hj]

/-- Lists with the same blocks are equal. -/
theorem blocks_ext {A B : List Block} (hlen : A.length = B.length) (h : ∀ j, j < A.length → blockAt A j = blockAt B j) :
    A = B := by
  refine List.ext_getElem hlen fun j hj hj' => ?_
  simpa only [blockAt, List.getD_eq_getElem _ _ hj, List.getD_eq_getElem _ _ hj'] using h j hj

/-! ### Sums over three times a range -/

section

variable {M : Type*} [AddCommMonoid M]

/-- By the third in which an index lies. -/
theorem sum_range_three_mul_thirds (h : Nat) (f : Nat → M) :
    ∑ j ∈ Finset.range (3 * h), f j = ∑ i ∈ Finset.range h, (f i + f (h + i) + f (2 * h + i)) := by
  rw [show 3 * h = h + h + h by ring, Finset.sum_range_add, Finset.sum_range_add, Finset.sum_add_distrib,
    Finset.sum_add_distrib, Nat.two_mul]

/-- By the remainder of an index modulo 3. -/
theorem sum_range_three_mul_residues (h : Nat) (f : Nat → M) :
    ∑ k ∈ Finset.range (3 * h), f k = ∑ k ∈ Finset.range h, (f (3 * k) + f (3 * k + 1) + f (3 * k + 2)) := by
  induction h with
  | zero => rfl
  | succ h ih =>
    rw [show 3 * (h + 1) = 3 * h + 1 + 1 + 1 by ring, Finset.sum_range_succ, Finset.sum_range_succ, Finset.sum_range_succ, ih,
      Finset.sum_range_succ]
    simp only [add_assoc]

end

/-! ### The step of a level -/

/-- Below a level there is a whole step: `m = 3^L · step`. -/
theorem exists_step {m L : Nat} (h : 3 ^ (L + 1) ∣ 3 * m) : ∃ σ, m = 3 ^ L * σ := by
  obtain ⟨σ, hσ⟩ := h
  exact ⟨σ, Nat.eq_of_mul_eq_mul_left (by decide : 0 < 3) (by rw [hσ]; ring)⟩

/-- The steps of the level and of the next one. -/
theorem step_eqs {m L σ : Nat} (hm : m = 3 ^ L * σ) : 3 * m / 3 ^ (L + 1) = σ ∧ 3 * m / 3 ^ L = 3 * σ := by
  subst hm
  constructor
  · rw [show 3 * (3 ^ L * σ) = 3 ^ (L + 1) * σ by ring, Nat.mul_div_cancel_left _ (by positivity)]
  · rw [show 3 * (3 ^ L * σ) = 3 ^ L * (3 * σ) by ring, Nat.mul_div_cancel_left _ (by positivity)]

theorem next_dvd {m L σ : Nat} (hm : m = 3 ^ L * σ) : 3 ^ L ∣ 3 * m := ⟨3 * σ, by rw [hm]; ring⟩

/-! ### One level of the forward transform -/

/-- The three inputs of the recursion: `U`, `V` and `W` of R95, for `c = 0, 1, 2`. -/
def fftBranch (m L : Nat) (B : List Block) : Nat → List Block
  | 0 => (List.range (3 ^ L)).map fun i => bfly0 (blockAt B i) (blockAt B (i + 3 ^ L)) (blockAt B (i + 2 * 3 ^ L))
  | 1 => (List.range (3 ^ L)).map fun i => twiddle (bfly1 (blockAt B i) (blockAt B (i + 3 ^ L)) (blockAt B (i + 2 * 3 ^ L)))
      (i * (3 * m / 3 ^ (L + 1)))
  | _ + 2 => (List.range (3 ^ L)).map fun i => twiddle (bfly2 (blockAt B i) (blockAt B (i + 3 ^ L)) (blockAt B (i + 2 * 3 ^ L)))
      (2 * i * (3 * m / 3 ^ (L + 1)))

theorem fftLevels_succ (m L : Nat) (B : List Block) : fftLevels m (L + 1) B =
    fftLevels m L (fftBranch m L B 0) ++ fftLevels m L (fftBranch m L B 1) ++ fftLevels m L (fftBranch m L B 2) := rfl

/-- The blocks that a butterfly takes have `m` elements. -/
theorem blockAt_thirds_length {m L : Nat} {B : List Block} (hB : AllLen m B) (hlen : B.length = 3 ^ (L + 1)) {i : Nat}
    (hi : i < 3 ^ L) : (blockAt B i).length = m ∧ (blockAt B (i + 3 ^ L)).length = m ∧ (blockAt B (i + 2 * 3 ^ L)).length = m := by
  rw [pow_succ] at hlen
  exact ⟨hB.blockAt (by omega), hB.blockAt (by omega), hB.blockAt (by omega)⟩

theorem fftBranch_shape {m L : Nat} {B : List Block} (hlen : B.length = 3 ^ (L + 1)) (hB : AllLen m B) (c : Nat) :
    (fftBranch m L B c).length = 3 ^ L ∧ AllLen m (fftBranch m L B c) := by
  have hbfly : ∀ i, i < 3 ^ L → _ := fun i hi => by
    obtain ⟨hA, hB', hC⟩ := blockAt_thirds_length hB hlen hi
    exact bfly_length hA hB' hC
  unfold fftBranch
  split
  · exact ⟨by simp, AllLen.map_range fun i hi => (hbfly i hi).1⟩
  · exact ⟨by simp, AllLen.map_range fun i hi => by rw [twiddle_length]; exact (hbfly i hi).2.1⟩
  · exact ⟨by simp, AllLen.map_range fun i hi => by rw [twiddle_length]; exact (hbfly i hi).2.2⟩

/-- Block `c·3^L + q` of the transform is block `q` of branch `c`. -/
theorem blockAt_fftLevels_succ {m L : Nat} {B : List Block} (hlen : B.length = 3 ^ (L + 1)) (hB : AllLen m B) {c q : Nat}
    (hc : c < 3) (hq : q < 3 ^ L) :
    blockAt (fftLevels m (L + 1) B) (c * 3 ^ L + q) = blockAt (fftLevels m L (fftBranch m L B c)) q := by
  have hshape : ∀ c, (fftLevels m L (fftBranch m L B c)).length = 3 ^ L := fun c => by
    obtain ⟨hl, hm⟩ := fftBranch_shape hlen hB c
    exact (fftLevels_shape m L hl hm).1
  rw [fftLevels_succ]
  obtain rfl | rfl | rfl : c = 0 ∨ c = 1 ∨ c = 2 := by omega
  · rw [zero_mul, zero_add, blockAt_append_left _ (by rw [List.length_append, hshape]; omega),
      blockAt_append_left _ (by rwa [hshape])]
  · rw [one_mul, blockAt_append_left _ (by rw [List.length_append, hshape, hshape]; omega),
      blockAt_append_right _ (hshape 0)]
  · rw [blockAt_append_right _ (by rw [List.length_append, hshape, hshape, Nat.two_mul])]

/-! ### A level of the sums -/

section

variable {S : Type*} [CommRing S]

/-- One level of a sum over `3h` values with a root `z` for which `z^h = w`, at the exponents `3k + c`. -/
theorem sum_level_forward {z w : S} {h : Nat} (hz : z ^ h = w) (hw : w ^ 3 = 1) (b : Nat → S) (c k : Nat) :
    ∑ j ∈ Finset.range (3 * h), b j * z ^ (j * (3 * k + c)) =
      ∑ i ∈ Finset.range h, (b i + w ^ c * b (i + h) + w ^ (2 * c) * b (i + 2 * h)) * z ^ (c * i) * z ^ (3 * (i * k)) := by
  have hturn : ∀ d i : Nat, z ^ ((d * h + i) * (3 * k + c)) = w ^ (d * c) * (z ^ (c * i) * z ^ (3 * (i * k))) := fun d i => by
    calc z ^ ((d * h + i) * (3 * k + c)) = ((z ^ h) ^ 3) ^ (d * k) * (z ^ h) ^ (d * c) * (z ^ (c * i) * z ^ (3 * (i * k))) := by
          simp only [← pow_mul, ← pow_add]
          congr 1
          ring
      _ = _ := by rw [hz, hw, one_pow, one_mul]
  rw [sum_range_three_mul_thirds]
  refine Finset.sum_congr rfl fun i _ => ?_
  have h0 := hturn 0 i
  have h1 := hturn 1 i
  have h2 := hturn 2 i
  simp only [zero_mul, zero_add, one_mul, pow_zero] at h0 h1
  rw [h0, h1, h2, Nat.add_comm i h, Nat.add_comm i (2 * h)]
  ring

/-- One level of a sum over `3h` exponents with a root `z` for which `z^h = w`, at the index `d·h + i`. -/
theorem sum_level_inverse {z w : S} {h : Nat} (hz : z ^ h = w) (hw : w ^ 3 = 1) (f : Nat → S) (d i : Nat) :
    ∑ k ∈ Finset.range (3 * h), f k * z ^ ((d * h + i) * k) =
      (∑ k ∈ Finset.range h, f (3 * k) * z ^ (3 * (i * k))) +
        w ^ d * z ^ i * (∑ k ∈ Finset.range h, f (3 * k + 1) * z ^ (3 * (i * k))) +
        w ^ (2 * d) * z ^ (2 * i) * ∑ k ∈ Finset.range h, f (3 * k + 2) * z ^ (3 * (i * k)) := by
  have hturn : ∀ c k : Nat, z ^ ((d * h + i) * (3 * k + c)) = w ^ (c * d) * z ^ (c * i) * z ^ (3 * (i * k)) := fun c k => by
    calc z ^ ((d * h + i) * (3 * k + c)) = ((z ^ h) ^ 3) ^ (d * k) * ((z ^ h) ^ (c * d) * z ^ (c * i) * z ^ (3 * (i * k))) := by
          simp only [← pow_mul, ← pow_add]
          congr 1
          ring
      _ = _ := by rw [hz, hw, one_pow, one_mul]
  rw [sum_range_three_mul_residues, Finset.mul_sum, Finset.mul_sum, ← Finset.sum_add_distrib, ← Finset.sum_add_distrib]
  refine Finset.sum_congr rfl fun k _ => ?_
  have h0 := hturn 0 k
  rw [Nat.add_zero] at h0
  rw [h0, hturn 1, hturn 2]
  ring

/-- The sum of the powers of a cube root of unity. -/
theorem sum_cube_root_pow {w : S} (hw : 1 + w + w ^ 2 = 0) (k : Nat) : 1 + w ^ k + w ^ (2 * k) = if k % 3 = 0 then 3 else 0 := by
  have hw3 : w ^ 3 = 1 := by linear_combination (w - 1) * hw
  have hred : w ^ k = w ^ (k % 3) := pow_eq_pow_mod k hw3
  rw [Nat.mul_comm, pow_mul, hred]
  obtain h | h | h : k % 3 = 0 ∨ k % 3 = 1 ∨ k % 3 = 2 := by omega
  · rw [h, if_pos rfl]
    norm_num
  · rw [h, if_neg (by decide), pow_one, hw]
  · rw [h, if_neg (by decide)]
    linear_combination hw + w * hw3

end

section

variable {S : Type*} [CommRing S] [Algebra Ext S] {x : S} {m : Nat}

/-! ### Butterflies -/

theorem blockVal_bfly0 (x : S) {A B C : Block} (hA : A.length = m) (hB : B.length = m) (hC : C.length = m) :
    blockVal x (bfly0 A B C) = blockVal x A + blockVal x B + blockVal x C := by
  rw [bfly0, blockVal_badd _ (by simp [hA, hB, hC]), blockVal_badd _ (by simp [hA, hB])]

theorem blockVal_bfly1 (x : S) {A B C : Block} (hA : A.length = m) (hB : B.length = m) (hC : C.length = m) :
    blockVal x (bfly1 A B C) = blockVal x A + algebraMap Ext S ω * blockVal x B + algebraMap Ext S ω ^ 2 * blockVal x C := by
  rw [bfly1, blockVal_badd _ (by simp [hA, hB, hC]), blockVal_badd _ (by simp [hA, hB]), blockVal_bwpow, blockVal_bwpow,
    pow_one]

theorem blockVal_bfly2 (x : S) {A B C : Block} (hA : A.length = m) (hB : B.length = m) (hC : C.length = m) :
    blockVal x (bfly2 A B C) = blockVal x A + algebraMap Ext S ω ^ 2 * blockVal x B + algebraMap Ext S ω * blockVal x C := by
  rw [bfly2, blockVal_badd _ (by simp [hA, hB, hC]), blockVal_badd _ (by simp [hA, hB]), blockVal_bwpow, blockVal_bwpow,
    pow_one]

theorem algebraMap_omega_pow_three : algebraMap Ext S ω ^ 3 = 1 := by
  rw [← map_pow, omega_pow_three, map_one]

theorem one_add_algebraMap_omega_add_sq : 1 + algebraMap Ext S ω + algebraMap Ext S ω ^ 2 = 0 := by
  rw [← map_one (algebraMap Ext S), ← map_pow, ← map_add, ← map_add, one_add_omega_add_sq, map_zero]

/-! ### The forward transform by values (R94) -/

theorem blockVal_fftBranch (hx : x ^ m = algebraMap Ext S ω) {L σ : Nat} (hm : m = 3 ^ L * σ) {B : List Block}
    (hlen : B.length = 3 ^ (L + 1)) (hB : AllLen m B) {c i : Nat} (hc : c < 3) (hi : i < 3 ^ L) :
    blockVal x (blockAt (fftBranch m L B c) i) =
      (blockVal x (blockAt B i) + algebraMap Ext S ω ^ c * blockVal x (blockAt B (i + 3 ^ L)) +
        algebraMap Ext S ω ^ (2 * c) * blockVal x (blockAt B (i + 2 * 3 ^ L))) * x ^ (c * i * σ) := by
  have hstep := (step_eqs hm).1
  obtain ⟨hA, hB', hC⟩ := blockAt_thirds_length hB hlen hi
  obtain ⟨-, hlen1, hlen2⟩ := bfly_length hA hB' hC
  obtain rfl | rfl | rfl : c = 0 ∨ c = 1 ∨ c = 2 := by omega
  · rw [fftBranch, blockAt_map_range hi, blockVal_bfly0 x hA hB' hC]
    simp
  · rw [fftBranch, hstep, blockAt_map_range hi, blockVal_twiddle (by rw [hlen1, hx]), blockVal_bfly1 x hA hB' hC]
    ring
  · rw [fftBranch, hstep, blockAt_map_range hi, blockVal_twiddle (by rw [hlen2, hx]), blockVal_bfly2 x hA hB' hC]
    linear_combination
      (-x ^ (2 * i * σ) * algebraMap Ext S ω * blockVal x (blockAt B (i + 2 * 3 ^ L))) *
        algebraMap_omega_pow_three (S := S)

/-- The forward transform by values: block `rev3 k` is `Σ_j B_j·ζ^(jk)` with `ζ = x^(3m/r)` (R94). -/
theorem blockVal_fftLevels (hx : x ^ m = algebraMap Ext S ω) {L : Nat} (hdvd : 3 ^ L ∣ 3 * m) {B : List Block}
    (hlen : B.length = 3 ^ L) (hB : AllLen m B) {k : Nat} (hk : k < 3 ^ L) :
    blockVal x (blockAt (fftLevels m L B) (rev3 L k)) =
      ∑ j ∈ Finset.range (3 ^ L), blockVal x (blockAt B j) * (x ^ (3 * m / 3 ^ L)) ^ (j * k) := by
  induction L generalizing B k with
  | zero => simp [fftLevels, rev3]
  | succ L ih =>
    obtain ⟨σ, hm⟩ := exists_step hdvd
    have hc : k % 3 < 3 := Nat.mod_lt k (by decide)
    have hq : k / 3 < 3 ^ L := Nat.div_lt_of_lt_mul (by rwa [← pow_succ'])
    obtain ⟨hlenc, hBc⟩ := fftBranch_shape hlen hB (k % 3)
    have hroot : (x ^ σ) ^ 3 ^ L = algebraMap Ext S ω := by rw [← pow_mul, Nat.mul_comm, ← hm, hx]
    have hlevel := sum_level_forward hroot algebraMap_omega_pow_three (fun j => blockVal x (blockAt B j)) (k % 3) (k / 3)
    rw [Nat.div_add_mod, ← pow_succ'] at hlevel
    obtain ⟨hstep, hstep'⟩ := step_eqs hm
    rw [rev3_succ, blockAt_fftLevels_succ hlen hB hc (rev3_lt L _), ih (next_dvd hm) hlenc hBc hq, hstep', hstep, hlevel]
    refine Finset.sum_congr rfl fun i hi => ?_
    rw [blockVal_fftBranch hx hm hlen hB hc (Finset.mem_range.1 hi)]
    simp only [← pow_mul]
    ring

/-! ### One level of the inverse transform -/

/-- The block that a butterfly of the inverse transform takes from a branch: a block of the branch's transform, divided by `ζ^e`
(R100). -/
def unweighted (m L : Nat) (X : List Block) (i e : Nat) : Block :=
  twiddle (blockAt (ifftLevels m L X) i) (3 * m - e * (3 * m / 3 ^ (L + 1)))

theorem ifftLevels_append {L : Nat} {A B : List Block} (hA : A.length = 3 ^ L) (hB : B.length = 3 ^ L) (C : List Block) :
    ifftLevels m (L + 1) (A ++ B ++ C) =
      ((List.range (3 ^ L)).map fun i =>
        bfly0 (blockAt (ifftLevels m L A) i) (unweighted m L B i i) (unweighted m L C i (2 * i))) ++
      ((List.range (3 ^ L)).map fun i =>
        bfly2 (blockAt (ifftLevels m L A) i) (unweighted m L B i i) (unweighted m L C i (2 * i))) ++
      ((List.range (3 ^ L)).map fun i =>
        bfly1 (blockAt (ifftLevels m L A) i) (unweighted m L B i i) (unweighted m L C i (2 * i))) := by
  have htake : (A ++ B ++ C).take (3 ^ L) = A := by
    rw [List.append_assoc, ← hA, List.take_left]
  have hmid : ((A ++ B ++ C).drop (3 ^ L)).take (3 ^ L) = B := by
    rw [List.append_assoc, ← hA, List.drop_left, hA, ← hB, List.take_left]
  have hdrop : (A ++ B ++ C).drop (2 * 3 ^ L) = C := by
    rw [show 2 * 3 ^ L = (A ++ B).length by rw [List.length_append, hA, hB, Nat.two_mul], List.drop_left]
  rw [ifftLevels, htake, hmid, hdrop]
  rfl

/-- Three lists of a third each. -/
theorem exists_thirds {L : Nat} {X : List Block} (hX : X.length = 3 ^ (L + 1)) :
    ∃ A B C, X = A ++ B ++ C ∧ A.length = 3 ^ L ∧ B.length = 3 ^ L ∧ C.length = 3 ^ L := by
  rw [pow_succ] at hX
  refine ⟨X.take (3 ^ L), (X.drop (3 ^ L)).take (3 ^ L), X.drop (2 * 3 ^ L), ?_, ?_, ?_, ?_⟩
  · rw [Nat.two_mul, ← List.drop_drop, List.append_assoc, List.take_append_drop, List.take_append_drop]
  · rw [List.length_take]; omega
  · rw [List.length_take, List.length_drop]; omega
  · rw [List.length_drop]; omega

/-- The lowest digit of an index chooses the third in which its reversal lies. -/
theorem blockAt_append_rev3 {L : Nat} {A B : List Block} (hA : A.length = 3 ^ L) (hB : B.length = 3 ^ L) (C : List Block) :
    (∀ k, blockAt (A ++ B ++ C) (rev3 (L + 1) (3 * k)) = blockAt A (rev3 L k)) ∧
      (∀ k, blockAt (A ++ B ++ C) (rev3 (L + 1) (3 * k + 1)) = blockAt B (rev3 L k)) ∧
      ∀ k, blockAt (A ++ B ++ C) (rev3 (L + 1) (3 * k + 2)) = blockAt C (rev3 L k) := by
  have hrev : ∀ c k, c < 3 → rev3 (L + 1) (3 * k + c) = c * 3 ^ L + rev3 L k := fun c k hc => by
    rw [rev3_succ, Nat.mul_add_mod, Nat.mod_eq_of_lt hc, Nat.mul_add_div (by decide), Nat.div_eq_of_lt hc, Nat.add_zero]
  refine ⟨fun k => ?_, fun k => ?_, fun k => ?_⟩
  · have hlt := rev3_lt L k
    have h0 : rev3 (L + 1) (3 * k) = 0 * 3 ^ L + rev3 L k := hrev 0 k (by decide)
    rw [h0, Nat.zero_mul, Nat.zero_add, blockAt_append_left _ (by rw [List.length_append]; omega), blockAt_append_left _ (by omega)]
  · have hlt := rev3_lt L k
    rw [hrev 1 k (by decide), Nat.one_mul, blockAt_append_left _ (by rw [List.length_append]; omega),
      blockAt_append_right _ hA]
  · rw [hrev 2 k (by decide), blockAt_append_right _ (by rw [List.length_append, hA, hB, Nat.two_mul])]

/-- The inverse of `x` has the power `ω² = ω⁻¹`. -/
theorem inverse_root_pow {y : S} (hx : x ^ m = algebraMap Ext S ω) (hxy : x * y = 1) : y ^ m = algebraMap Ext S ω ^ 2 := by
  have hunit : algebraMap Ext S ω * y ^ m = 1 := by rw [← hx, ← mul_pow, hxy, one_pow]
  linear_combination algebraMap Ext S ω ^ 2 * hunit - y ^ m * algebraMap_omega_pow_three (S := S)

theorem inverse_pow_three_mul {y : S} (hx : x ^ m = algebraMap Ext S ω) (hxy : x * y = 1) : y ^ (3 * m) = 1 := by
  calc y ^ (3 * m) = x ^ (3 * m) * y ^ (3 * m) := by rw [pow_three_mul_eq_one hx, one_mul]
    _ = 1 := by rw [← mul_pow, hxy, one_pow]

/-- The twiddle by `3m − e` divides by `x^e`. -/
theorem pow_three_mul_sub {y : S} (hx : x ^ m = algebraMap Ext S ω) (hxy : x * y = 1) {e : Nat} (he : e ≤ 3 * m) :
    x ^ (3 * m - e) = y ^ e := by
  calc x ^ (3 * m - e) = x ^ (3 * m - e) * (x * y) ^ e := by rw [hxy, one_pow, mul_one]
    _ = x ^ (3 * m) * y ^ e := by rw [mul_pow, ← mul_assoc, ← pow_add, Nat.sub_add_cancel he]
    _ = y ^ e := by rw [pow_three_mul_eq_one hx, one_mul]

theorem unweighted_spec {y : S} (hx : x ^ m = algebraMap Ext S ω) (hxy : x * y = 1) {L σ : Nat} (hm : m = 3 ^ L * σ)
    {X : List Block} (hX : X.length = 3 ^ L) (hmX : AllLen m X) {i e : Nat} (hi : i < 3 ^ L) (he : e ≤ 2 * 3 ^ L) :
    (unweighted m L X i e).length = m ∧
      blockVal x (unweighted m L X i e) = y ^ (e * σ) * blockVal x (blockAt (ifftLevels m L X) i) := by
  obtain ⟨hlen, hall⟩ := ifftLevels_shape m L hX hmX
  have hblock : (blockAt (ifftLevels m L X) i).length = m := hall.blockAt (by omega)
  have heσ : e * σ ≤ 3 * m := by
    have h := Nat.mul_le_mul_right σ he
    rw [mul_assoc, ← hm] at h
    omega
  rw [unweighted, (step_eqs hm).1]
  exact ⟨by rw [twiddle_length, hblock], by rw [blockVal_twiddle (by rw [hblock, hx]), pow_three_mul_sub hx hxy heσ]⟩

/-- One level of the inverse transform by values: the three sequences are divided by `ζ^(c·i)` and put together with the powers of
`ω² = ω⁻¹` (R100). -/
theorem blockVal_ifftLevels_append {y : S} (hx : x ^ m = algebraMap Ext S ω) (hxy : x * y = 1) {L σ : Nat} (hm : m = 3 ^ L * σ)
    {A B C : List Block} (hA : A.length = 3 ^ L) (hB : B.length = 3 ^ L) (hC : C.length = 3 ^ L) (hmA : AllLen m A)
    (hmB : AllLen m B) (hmC : AllLen m C) {d i : Nat} (hd : d < 3) (hi : i < 3 ^ L) :
    blockVal x (blockAt (ifftLevels m (L + 1) (A ++ B ++ C)) (d * 3 ^ L + i)) =
      blockVal x (blockAt (ifftLevels m L A) i) +
        (algebraMap Ext S ω ^ 2) ^ d * y ^ (i * σ) * blockVal x (blockAt (ifftLevels m L B) i) +
        (algebraMap Ext S ω ^ 2) ^ (2 * d) * y ^ (2 * i * σ) * blockVal x (blockAt (ifftLevels m L C) i) := by
  obtain ⟨hlenA, hallA⟩ := ifftLevels_shape m L hA hmA
  have hU : (blockAt (ifftLevels m L A) i).length = m := hallA.blockAt (by omega)
  obtain ⟨hV, hv⟩ := unweighted_spec hx hxy hm hB hmB hi (e := i) (by omega)
  obtain ⟨hW, hw⟩ := unweighted_spec hx hxy hm hC hmC hi (e := 2 * i) (by omega)
  have hw3 := algebraMap_omega_pow_three (S := S)
  rw [ifftLevels_append hA hB]
  obtain rfl | rfl | rfl : d = 0 ∨ d = 1 ∨ d = 2 := by omega
  · rw [zero_mul, zero_add, blockAt_append_left _ (by simp; omega), blockAt_append_left _ (by simpa using hi),
      blockAt_map_range hi, blockVal_bfly0 x hU hV hW, hv, hw]
    ring
  · rw [one_mul, blockAt_append_left _ (by simp; omega), blockAt_append_right _ (by simp),
      blockAt_map_range hi, blockVal_bfly2 x hU hV hW, hv, hw]
    linear_combination (-algebraMap Ext S ω * y ^ (2 * i * σ) * blockVal x (blockAt (ifftLevels m L C) i)) * hw3
  · rw [blockAt_append_right _ (by simp [Nat.two_mul]), blockAt_map_range hi, blockVal_bfly1 x hU hV hW, hv, hw]
    linear_combination (-algebraMap Ext S ω * y ^ (i * σ) * blockVal x (blockAt (ifftLevels m L B) i) -
      algebraMap Ext S ω ^ 2 * (1 + algebraMap Ext S ω ^ 3) * y ^ (2 * i * σ) * blockVal x (blockAt (ifftLevels m L C) i)) * hw3

/-! ### The inverse transform by values (R99) -/

/-- An index below `3^(L+1)` by its third. -/
theorem exists_third {L j : Nat} (hj : j < 3 ^ (L + 1)) : ∃ d i, d < 3 ∧ i < 3 ^ L ∧ j = d * 3 ^ L + i :=
  ⟨j / 3 ^ L, j % 3 ^ L, Nat.div_lt_of_lt_mul (by rwa [← pow_succ]), Nat.mod_lt j (by positivity),
    by rw [Nat.mul_comm, Nat.div_add_mod]⟩

/-- Block `j` of the inverse transform is `Σ_k X_(rev3 k)·ζ^(−jk)`; `y` is the inverse of `x` (R99). -/
theorem blockVal_ifftLevels {y : S} (hx : x ^ m = algebraMap Ext S ω) (hxy : x * y = 1) {L : Nat} (hdvd : 3 ^ L ∣ 3 * m)
    {X : List Block} (hlen : X.length = 3 ^ L) (hX : AllLen m X) {j : Nat} (hj : j < 3 ^ L) :
    blockVal x (blockAt (ifftLevels m L X) j) =
      ∑ k ∈ Finset.range (3 ^ L), blockVal x (blockAt X (rev3 L k)) * (y ^ (3 * m / 3 ^ L)) ^ (j * k) := by
  induction L generalizing X j with
  | zero =>
    obtain rfl : j = 0 := by simpa using hj
    simp [ifftLevels, rev3]
  | succ L ih =>
    obtain ⟨σ, hm⟩ := exists_step hdvd
    obtain ⟨d, i, hd, hi, rfl⟩ := exists_third hj
    obtain ⟨A, B, C, rfl, hA, hB, hC⟩ := exists_thirds hlen
    have hmA : AllLen m A := hX.sublist fun p hp => by simp [hp]
    have hmB : AllLen m B := hX.sublist fun p hp => by simp [hp]
    have hmC : AllLen m C := hX.sublist fun p hp => by simp [hp]
    obtain ⟨hstep, hstep'⟩ := step_eqs hm
    have hroot : (y ^ σ) ^ 3 ^ L = algebraMap Ext S ω ^ 2 := by
      rw [← pow_mul, Nat.mul_comm, ← hm]
      exact inverse_root_pow hx hxy
    have hcube : (algebraMap Ext S ω ^ 2) ^ 3 = 1 := by rw [pow_right_comm, algebraMap_omega_pow_three, one_pow]
    have hlevel := sum_level_inverse hroot hcube (fun k => blockVal x (blockAt (A ++ B ++ C) (rev3 (L + 1) k))) d i
    obtain ⟨hat0, hat1, hat2⟩ := blockAt_append_rev3 hA hB C
    simp only [← pow_succ', hat0, hat1, hat2] at hlevel
    rw [blockVal_ifftLevels_append hx hxy hm hA hB hC hmA hmB hmC hd hi, ih (next_dvd hm) hA hmA hi, ih (next_dvd hm) hB hmB hi,
      ih (next_dvd hm) hC hmC hi, hstep', hstep, hlevel]
    simp only [← pow_mul, Nat.mul_comm _ σ, Nat.mul_assoc]

/-! ### The round trip (R99) -/

/-- The inverse transform of the forward transform is `r` times the input. -/
theorem blockVal_ifftLevels_fftLevels {y : S} (hx : x ^ m = algebraMap Ext S ω) (hxy : x * y = 1) {L : Nat}
    (hdvd : 3 ^ L ∣ 3 * m) {B : List Block} (hlen : B.length = 3 ^ L) (hB : AllLen m B) {j : Nat} (hj : j < 3 ^ L) :
    blockVal x (blockAt (ifftLevels m L (fftLevels m L B)) j) = 3 ^ L * blockVal x (blockAt B j) := by
  induction L generalizing B j with
  | zero => simp [fftLevels, ifftLevels]
  | succ L ih =>
    obtain ⟨σ, hm⟩ := exists_step hdvd
    obtain ⟨d, i, hd, hi, rfl⟩ := exists_third hj
    have hshape := fun c => fftBranch_shape hlen hB c
    have hfft := fun c => fftLevels_shape m L (hshape c).1 (hshape c).2
    have hvals := fun c (hc : c < 3) => (ih (next_dvd hm) (hshape c).1 (hshape c).2 hi).trans
      (congrArg _ (blockVal_fftBranch hx hm hlen hB hc hi))
    have hcancel : ∀ e : Nat, y ^ e * x ^ e = 1 := fun e => by rw [← mul_pow, mul_comm, hxy, one_pow]
    have hcube := sum_cube_root_pow (one_add_algebraMap_omega_add_sq (S := S))
    rw [fftLevels_succ, blockVal_ifftLevels_append hx hxy hm (hfft 0).1 (hfft 1).1 (hfft 2).1 (hfft 0).2 (hfft 1).2
      (hfft 2).2 hd hi, hvals 0 (by decide), hvals 1 (by decide), hvals 2 (by decide)]
    generalize hw : algebraMap Ext S ω = w at hcube ⊢
    rw [Nat.one_mul]
    calc _ = 3 ^ L * (blockVal x (blockAt B i) * (1 + w ^ (2 * d) + w ^ (2 * (2 * d))) +
          blockVal x (blockAt B (i + 3 ^ L)) * (1 + w ^ (2 * d + 1) + w ^ (2 * (2 * d + 1))) +
          blockVal x (blockAt B (i + 2 * 3 ^ L)) * (1 + w ^ (2 * d + 2) + w ^ (2 * (2 * d + 2)))) := by
          linear_combination
            3 ^ L * (w ^ 2) ^ d * (blockVal x (blockAt B i) + w * blockVal x (blockAt B (i + 3 ^ L)) +
              w ^ 2 * blockVal x (blockAt B (i + 2 * 3 ^ L))) * hcancel (i * σ) +
            3 ^ L * (w ^ 2) ^ (2 * d) * (blockVal x (blockAt B i) + w ^ 2 * blockVal x (blockAt B (i + 3 ^ L)) +
              w ^ 4 * blockVal x (blockAt B (i + 2 * 3 ^ L))) * hcancel (2 * i * σ)
      _ = 3 ^ (L + 1) * blockVal x (blockAt B (d * 3 ^ L + i)) := by
          rw [hcube, hcube, hcube]
          obtain rfl | rfl | rfl : d = 0 ∨ d = 1 ∨ d = 2 := by omega
          · norm_num
            ring
          · norm_num [Nat.add_comm (3 ^ L) i]
            ring
          · norm_num [Nat.add_comm (2 * 3 ^ L) i]
            ring

end

/-! ### From values to coefficients -/

/-- In `Ext[x]/(x^m − ω)` a block with the value of a sum of blocks is their sum, coefficient by coefficient. -/
theorem at_eq_rsum_of_blockVal_eq {m r : Nat} {p : Block} {q : Nat → Block} (hp : p.length = m)
    (hq : ∀ j, j < r → (q j).length = m)
    (h : blockVal (wrapRoot m (ω : Ext)) p = ∑ j ∈ Finset.range r, blockVal (wrapRoot m (ω : Ext)) (q j)) {i : Nat} (hi : i < m) :
    p.at i = rsum ((List.range r).map fun j => (q j).at i) := by
  have hsum : aeval (wrapRoot m (ω : Ext)) (seqPoly m (coeffs p)) =
      aeval (wrapRoot m (ω : Ext)) (seqPoly m fun i => ∑ j ∈ Finset.range r, coeffs (q j) i) := by
    rw [seqPoly_sum, map_sum, ← hp, ← blockVal, hp, h]
    exact Finset.sum_congr rfl fun j hj => by rw [blockVal, hq j (Finset.mem_range.1 hj)]
  rw [← toExt_inj, toExt_rsum_range]
  exact eq_of_aeval_root_eq hsum hi

/-- The inverse of `x` in `Ext[x]/(x^m − ω)`. -/
theorem wrapRoot_mul_pow {m : Nat} (hm : 0 < m) : wrapRoot m (ω : Ext) * wrapRoot m (ω : Ext) ^ (3 * m - 1) = 1 := by
  rw [← pow_succ', Nat.sub_add_cancel (by omega), pow_three_mul_eq_one (wrapRoot_pow m ω)]

theorem three_pow_dvd {a L : Nat} (h : 3 ^ L ≤ 3 * 3 ^ a) : 3 ^ L ∣ 3 * 3 ^ a := by
  rw [← pow_succ'] at h ⊢
  exact pow_dvd_pow 3 (three_pow_le_iff.1 h)

theorem fft3_eq_fftLevels {L m : Nat} {B : List Block} (hB : B.length = 3 ^ L) : fft3 B m = fftLevels m L B := by
  rw [fft3, hB, log3_pow]

theorem ifft3_eq_ifftLevels {L m : Nat} {X : List Block} (hX : X.length = 3 ^ L) : ifft3 X m = ifftLevels m L X := by
  rw [ifft3, hX, log3_pow]

/-! ### The obligations -/

/-- Settles O9: both sides have the value that `blockVal_fftLevels` gives. -/
theorem forwardTransformIsDigitReversedDft : Obligations.ForwardTransformIsDigitReversedDft := by
  intro a L B hr hlen hB
  obtain ⟨hlen', hB'⟩ := fftLevels_shape (3 ^ a) L hlen hB
  rw [fft3_eq_fftLevels hlen]
  refine ⟨hlen', fun k hk i hi => ?_⟩
  have hx := wrapRoot_pow (3 ^ a) (ω : Ext)
  have hblock : ∀ j, j < 3 ^ L → (blockAt B j).length = 3 ^ a := fun j hj => AllLen.blockAt hB (by omega)
  refine at_eq_rsum_of_blockVal_eq (hB'.blockAt (by rw [hlen']; exact rev3_lt L k))
    (fun j hj => by rw [twiddle_length, hblock j hj]) ?_ hi
  rw [blockVal_fftLevels hx (three_pow_dvd hr) hlen hB hk]
  refine Finset.sum_congr rfl fun j hj => ?_
  rw [blockVal_twiddle (by rw [hblock j (Finset.mem_range.1 hj), hx]), pow_mod_three_mul hx, ← pow_mul, mul_comm,
    Nat.mul_comm (j * k)]

/-- The word `3^L` is the power of 3 in the ring. -/
theorem toExt_remb_three_pow (L : Nat) : toExt (remb (BitVec.ofNat 64 (3 ^ L))) = 3 ^ L := by
  rw [toExt_remb, ← BitVec.natCast_eq_ofNat, map_natCast, Nat.cast_pow, Nat.cast_ofNat]

/-- Block `j` of the round trip is `r` times block `j` (R99). -/
theorem ifft3_fft3 {a L : Nat} {B : List Block} (hr : 3 ^ L ≤ 3 * 3 ^ a) (hlen : B.length = 3 ^ L) (hB : AllLen (3 ^ a) B) :
    ifft3 (fft3 B (3 ^ a)) (3 ^ a) = B.map fun p => p.map (rmul (remb (BitVec.ofNat 64 (3 ^ L)))) := by
  obtain ⟨hlen', hB'⟩ := fftLevels_shape (3 ^ a) L hlen hB
  obtain ⟨hlen'', hB''⟩ := ifftLevels_shape (3 ^ a) L hlen' hB'
  rw [fft3_eq_fftLevels hlen, ifft3_eq_ifftLevels hlen']
  refine blocks_ext (by rw [hlen'', List.length_map, hlen]) fun j hj => ?_
  rw [hlen''] at hj
  rw [blockAt_map (by omega)]
  refine eq_of_blockVal_eq (hB''.blockAt (by omega)) (by rw [List.length_map]; exact hB.blockAt (by omega)) ?_
  rw [blockVal_ifftLevels_fftLevels (wrapRoot_pow (3 ^ a) ω) (wrapRoot_mul_pow (by positivity)) (three_pow_dvd hr) hlen hB hj,
    blockVal_map_rmul, toExt_remb_three_pow, map_pow, map_ofNat]

/-- Settles O10: the sum by the values of `blockVal_ifftLevels`, where `x^(3m − e)` is the power `e` of the inverse of `x`. -/
theorem inverseTransformIsConjugateKernelSum : Obligations.InverseTransformIsConjugateKernelSum := by
  intro a L X hr hlen hX
  obtain ⟨hlen', hX'⟩ := ifftLevels_shape (3 ^ a) L hlen hX
  refine ⟨by rw [ifft3_eq_ifftLevels hlen, hlen'], fun j hj i hi => ?_, ifft3_fft3 hr hlen hX⟩
  have hx := wrapRoot_pow (3 ^ a) (ω : Ext)
  have hxy := wrapRoot_mul_pow (m := 3 ^ a) (by positivity)
  have hblock : ∀ k, (blockAt X (rev3 L k)).length = 3 ^ a := fun k =>
    AllLen.blockAt hX (by rw [hlen]; exact rev3_lt L k)
  rw [ifft3_eq_ifftLevels hlen]
  refine at_eq_rsum_of_blockVal_eq (hX'.blockAt (by omega)) (fun k _ => by rw [twiddle_length, hblock k]) ?_ hi
  rw [blockVal_ifftLevels hx hxy (three_pow_dvd hr) hlen hX hj]
  refine Finset.sum_congr rfl fun k _ => ?_
  have hmod : j * k * (3 * 3 ^ a / 3 ^ L) % (3 * 3 ^ a) ≤ 3 * 3 ^ a := (Nat.mod_lt _ (by positivity)).le
  rw [blockVal_twiddle (by rw [hblock k, hx]), pow_mod_three_mul hx, pow_three_mul_sub hx hxy hmod, mul_comm,
    ← pow_eq_pow_mod _ (inverse_pow_three_mul hx hxy), ← pow_mul _ _ (j * k), Nat.mul_comm (j * k)]

/-- Scaling by `INV3^L` undoes the factor `3^L` on every element (R76, R103). -/
theorem bsc3_map_rmul (L : Nat) (p : Block) : bsc3 (p.map (rmul (remb (BitVec.ofNat 64 (3 ^ L))))) L = p := by
  have hundo : algebraMap Word Ext (inv3 ^ L) * 3 ^ L = 1 := by
    rw [← map_ofNat (algebraMap Word Ext), ← map_pow, ← map_mul, inv3_pow_mul_three_pow, map_one]
  have helt : ∀ u, rsc3 (rmul (remb (BitVec.ofNat 64 (3 ^ L))) u) L = u := fun u => by
    rw [← toExt_inj, toExt_rsc3, toExt_rmul, toExt_remb_three_pow]
    linear_combination toExt u * hundo
  rw [bsc3, List.map_map]
  exact (List.map_congr_left fun u _ => helt u).trans p.map_id

/-- Settles O11: the scaling undoes the factor `r` of the round trip. -/
theorem transformRoundTripRestoresTheBlocks : Obligations.TransformRoundTripRestoresTheBlocks := by
  intro a L B hr hlen hB
  rw [ifft3_fft3 hr hlen hB, List.map_map]
  exact (List.map_congr_left fun p _ => bsc3_map_rmul L p).trans B.map_id

end Sys2Proof.Machine

/-! ## O14: the multiplier

For `n = r·m` the two operands are polynomials in `y = x^m` whose coefficients are their blocks, and their product modulo `y^r −
ω` has the coefficients `blockProduct`, polynomials in `x` of degree below `2m`. Assembled in order they are the product modulo
`x^n − ω` (`assembled_eq_wrapMul`). A pass of the multiplier computes their residues modulo `x^m − ω` by transforms
(`blockVal_convolveBlocks`); the two passes give the residues `lo + ω·hi` and `lo + ω²·hi` of the two halves, and the CRT gives
the halves. -/

namespace Sys2Proof.Machine

open Polynomial
open scoped QuadraticAlgebra

/-! ### Products block by block -/

section

variable {R : Type*} [CommRing R] {c : R} {r m : Nat} {u v : Nat → R}

/-- Coefficient `j`, itself a polynomial in `x`, of the product modulo `y^r − c` of two sequences cut into `r` blocks of `m`. -/
noncomputable def blockProduct (c : R) (r m : Nat) (u v : Nat → R) (j : Nat) : R[X] :=
  wrapMul (C c) r (fun j => seqPoly m fun i => u (j * m + i)) (fun j => seqPoly m fun i => v (j * m + i)) j

theorem map_blockProduct {R' : Type*} [CommRing R'] (φ : R →+* R') (c : R) (r m : Nat) (u v : Nat → R) (j : Nat) :
    (blockProduct c r m u v j).map φ = blockProduct (φ c) r m (fun i => φ (u i)) (fun i => φ (v i)) j := by
  rw [blockProduct, ← coe_mapRingHom, map_wrapMul]
  simp only [coe_mapRingHom, map_C, map_seqPoly]
  rfl

/-- Its degree is below `2m`. -/
theorem coeff_blockProduct_of_ge {j k : Nat} (hj : j < r) (hk : m + m ≤ k) : (blockProduct c r m u v j).coeff k = 0 := by
  rw [blockProduct, wrapMul_eq_sum _ hj, finsetSum_coeff]
  refine Finset.sum_eq_zero fun i _ => ?_
  split
  · exact coeff_mul_seqPoly_of_ge m _ _ (by omega)
  · rw [coeff_C_mul, coeff_mul_seqPoly_of_ge m _ _ (by omega), mul_zero]

/-- The upper half of each block goes to the block behind it, that of the last with a factor `c` to the first (R117, R135). -/
noncomputable def assembled (c : R) (r m : Nat) (u v : Nat → R) (j i : Nat) : R :=
  (blockProduct c r m u v j).coeff i +
    if 0 < j then (blockProduct c r m u v (j - 1)).coeff (i + m) else c * (blockProduct c r m u v (r - 1)).coeff (i + m)

/-- A sum with each term moved up by one place, the last to the front. -/
theorem sum_range_rotate {S : Type*} [CommRing S] {y d : S} (hy : y ^ r = d) (hr : 0 < r) (f : Nat → S) :
    ∑ j ∈ Finset.range r, (if 0 < j then f (j - 1) else d * f (r - 1)) * y ^ j = y * ∑ j ∈ Finset.range r, f j * y ^ j := by
  obtain ⟨r, rfl⟩ : ∃ r', r = r' + 1 := ⟨r - 1, by omega⟩
  rw [Finset.sum_range_succ', Finset.sum_range_succ fun j => f j * y ^ j, mul_add, Finset.mul_sum, ← hy]
  simp only [Nat.add_sub_cancel, Nat.succ_pos, if_true, lt_irrefl, if_false, pow_zero, mul_one, pow_succ]
  congr 1
  · exact Finset.sum_congr rfl fun j _ => by ring
  · ring

section

variable {S : Type*} [CommRing S] [Algebra R S] {x : S}

/-- The value of a block of the product is that of the product of the values of the blocks. -/
theorem aeval_blockProduct (x : S) (c : R) (r m : Nat) (u v : Nat → R) (j : Nat) : aeval x (blockProduct c r m u v j) =
    wrapMul (algebraMap R S c) r (fun j => aeval x (seqPoly m fun i => u (j * m + i)))
      (fun j => aeval x (seqPoly m fun i => v (j * m + i))) j := by
  have h := map_wrapMul (aeval x).toRingHom (C c) r (fun j => seqPoly m fun i => u (j * m + i))
    (fun j => seqPoly m fun i => v (j * m + i)) j
  simpa [blockProduct] using h

/-- A block of the product by its halves. -/
theorem aeval_blockProduct_eq_halves {j : Nat} (hj : j < r) : aeval x (blockProduct c r m u v j) =
    aeval x (seqPoly m (blockProduct c r m u v j).coeff) +
      x ^ m * aeval x (seqPoly m fun i => (blockProduct c r m u v j).coeff (i + m)) := by
  simp only [Nat.add_comm _ m]
  rw [← aeval_seqPoly_append, seqPoly_coeff_self fun k hk => coeff_blockProduct_of_ge hj hk]

theorem aeval_assembled_block (x : S) (j : Nat) : aeval x (seqPoly m (assembled c r m u v j)) =
    aeval x (seqPoly m (blockProduct c r m u v j).coeff) +
      if 0 < j then aeval x (seqPoly m fun i => (blockProduct c r m u v (j - 1)).coeff (i + m))
      else algebraMap R S c * aeval x (seqPoly m fun i => (blockProduct c r m u v (r - 1)).coeff (i + m)) := by
  have hsplit : seqPoly m (assembled c r m u v j) = _ := seqPoly_add m _ _
  rw [hsplit, map_add]
  split
  · rfl
  · rw [seqPoly_smul, map_mul, aeval_C]

/-- The assembled blocks have the value of the product where `x^n = c`. -/
theorem aeval_assembled (hx : x ^ (r * m) = algebraMap R S c) (hr : 0 < r) (hm : 0 < m) :
    aeval x (seqPoly (r * m) fun k => assembled c r m u v (k / m) (k % m)) =
      aeval x (seqPoly (r * m) u) * aeval x (seqPoly (r * m) v) := by
  have hy : (x ^ m) ^ r = algebraMap R S c := by rw [← pow_mul, Nat.mul_comm, hx]
  have hy' : (x ^ m) ^ r = algebraMap S S (algebraMap R S c) := hy
  have hindex : ∀ j, (seqPoly m fun i => assembled c r m u v ((j * m + i) / m) ((j * m + i) % m)) =
      seqPoly m (assembled c r m u v j) := fun j => seqPoly_congr fun i hi => by
    rw [Nat.add_comm (j * m), Nat.add_mul_div_right _ _ hm, Nat.div_eq_of_lt hi, Nat.zero_add, Nat.add_mul_mod_self_right,
      Nat.mod_eq_of_lt hi]
  rw [aeval_seqPoly_blocks, aeval_seqPoly_blocks, aeval_seqPoly_blocks, ← aeval_wrapMul hy']
  simp only [hindex, aeval_assembled_block]
  simp only [aeval_seqPoly (R := S), Algebra.algebraMap_self, RingHom.id_apply, add_mul, Finset.sum_add_distrib]
  rw [sum_range_rotate hy hr fun j => aeval x (seqPoly m fun i => (blockProduct c r m u v j).coeff (i + m)),
    Finset.mul_sum, ← Finset.sum_add_distrib]
  refine Finset.sum_congr rfl fun j hj => ?_
  rw [← aeval_blockProduct, aeval_blockProduct_eq_halves (Finset.mem_range.1 hj)]
  ring

end

/-- The assembled blocks are the product modulo `x^n − c`. -/
theorem assembled_eq_wrapMul {j i : Nat} (hj : j < r) (hi : i < m) :
    assembled c r m u v j i = wrapMul c (r * m) u v (j * m + i) := by
  have hm : 0 < m := by omega
  have hlt : j * m + i < r * m := Nat.mul_comm m j ▸ Nat.mul_add_lt_mul_of_lt_of_lt hj hi
  have h := eq_wrapMul_of_aeval_root_eq (aeval_assembled (wrapRoot_pow (r * m) c) (by omega) hm (u := u) (v := v)) hlt
  rwa [Nat.add_comm (j * m), Nat.add_mul_div_right _ _ hm, Nat.div_eq_of_lt hi, Nat.zero_add, Nat.add_mul_mod_self_right,
    Nat.mod_eq_of_lt hi, Nat.add_comm i] at h

/-- A block of `m` elements with the value of a block of the product, its coefficients carried over by `φ`, is the residue
`lo + ω·hi` of the two halves of that block. -/
theorem coeffs_eq_residue (φ : R →+* Ext) {p : Block} (hp : p.length = m) {j : Nat} (hj : j < r)
    (h : blockVal (wrapRoot m (ω : Ext)) p = wrapMul (algebraMap Ext _ (φ c)) r
      (fun j => aeval (wrapRoot m (ω : Ext)) (seqPoly m fun i => φ (u (j * m + i))))
      (fun j => aeval (wrapRoot m (ω : Ext)) (seqPoly m fun i => φ (v (j * m + i)))) j) {i : Nat} (hi : i < m) :
    coeffs p i = φ ((blockProduct c r m u v j).coeff i) + ω * φ ((blockProduct c r m u v j).coeff (i + m)) := by
  rw [← aeval_blockProduct _ (φ c) r m (fun i => φ (u i)) (fun i => φ (v i)), ← map_blockProduct,
    ← aeval_fold (wrapRoot_pow m (ω : Ext)) fun k hk => by rw [coeff_map, coeff_blockProduct_of_ge hj hk, map_zero],
    blockVal, hp] at h
  simpa only [coeff_map] using eq_of_aeval_root_eq h hi

end

/-! ### The base case by its value (R112) -/

theorem toExt_schoolTerm (a b : Block) (n k i : Nat) : toExt (schoolTerm a b n k i) =
    if i ≤ k then coeffs a i * coeffs b (k - i) else ω * (coeffs a i * coeffs b (k + n - i)) := by
  unfold schoolTerm
  split
  · exact toExt_rmul _ _
  · rw [toExt_rwpow, toExt_rmul, pow_one, mul_comm]
    rfl

theorem coeffs_school (a b : Block) {k : Nat} (hk : k < a.length) :
    coeffs (school a b) k = wrapMul ω a.length (coeffs a) (coeffs b) k := by
  rw [coeffs, school_at a b hk, toExt_rsum_range, wrapMul_eq_sum _ hk]
  exact Finset.sum_congr rfl fun i _ => toExt_schoolTerm a b a.length k i

section

variable {S : Type*} [CommRing S] [Algebra Ext S] {x : S} {m : Nat}

theorem blockVal_school (hx : x ^ m = algebraMap Ext S ω) {a b : Block} (ha : a.length = m) (hb : b.length = m) :
    blockVal x (school a b) = blockVal x a * blockVal x b := by
  subst ha
  rw [blockVal, school_length, seqPoly_congr fun k hk => coeffs_school a b hk, aeval_wrapMul hx, blockVal, blockVal, hb]

/-- Blocks of a buffer (R33). -/
theorem coeffs_blocksOf (p : Block) {r j i : Nat} (hj : j < r) (hi : i < m) :
    coeffs (blockAt (blocksOf p r m) j) i = coeffs p (j * m + i) := by
  rw [blocksOf, blockAt_map_range hj, coeffs, coeffs, Block.at, Block.at]
  simp [List.getD_eq_getElem?_getD, hi]

theorem blockVal_blocksOf (x : S) {p : Block} {r : Nat} (hp : p.length = r * m) {j : Nat} (hj : j < r) :
    blockVal x (blockAt (blocksOf p r m) j) = aeval x (seqPoly m fun i => coeffs p (j * m + i)) := by
  rw [blockVal, (allLen_blocksOf hp).blockAt (by rwa [blocksOf_length]), seqPoly_congr fun i hi => coeffs_blocksOf p hj hi]

end

/-! ### Products by transforms -/

/-- Every element of `Ext[x]/(x^m − ω)` is the value of a block of `m` elements. -/
theorem exists_blockVal_eq {m : Nat} (hm : 0 < m) (s : WrapRing m (ω : Ext)) :
    ∃ p : Block, p.length = m ∧ blockVal (wrapRoot m (ω : Ext)) p = s := by
  obtain ⟨f, rfl⟩ := AdjoinRoot.mk_surjective s
  have hmonic : (X ^ m - C ω : Ext[X]).Monic := monic_X_pow_sub_C ω (by omega)
  have hrem : AdjoinRoot.mk (X ^ m - C ω) f = AdjoinRoot.mk (X ^ m - C ω) (f %ₘ (X ^ m - C ω)) := by
    rw [AdjoinRoot.mk_eq_mk, modByMonic_eq_sub_mul_div f, sub_sub_cancel]
    exact dvd_mul_right _ _
  have hdeg : ∀ k, m ≤ k → (f %ₘ (X ^ m - C ω)).coeff k = 0 := by
    rw [← degree_lt_iff_coeff_zero]
    have : Nontrivial Ext := ⟨0, 1, by decide⟩
    exact degree_X_pow_sub_C hm (ω : Ext) ▸ degree_modByMonic_lt f hmonic
  refine ⟨(List.range m).map fun i => ofExt ((f %ₘ (X ^ m - C ω)).coeff i), by simp, ?_⟩
  rw [hrem, ← AdjoinRoot.aeval_eq, ← seqPoly_coeff_self hdeg, blockVal, List.length_map, List.length_range,
    seqPoly_coeff_self hdeg]
  refine congrArg _ (Eq.trans (seqPoly_congr fun i hi => ?_) (seqPoly_coeff_self hdeg))
  simp [coeffs, Block.at, hi]

/-- What one pass does to its operands' blocks: transforms, products, the inverse transform and the scaling (R114, R133). -/
def convolveBlocks (mul : Block → Block → Block) (A B : List Block) (r m : Nat) : List Block :=
  (List.range r).map fun j => bsc3
    (blockAt (ifft3 ((List.range r).map fun j => mul (blockAt (fft3 A m) j) (blockAt (fft3 B m) j)) m) j) (log3 r)

/-- The scaled round trip gives each block back (R103). -/
theorem bsc3_ifft3_fft3 {a L : Nat} {B : List Block} (hr : 3 ^ L ≤ 3 * 3 ^ a) (hlen : B.length = 3 ^ L) (hB : AllLen (3 ^ a) B)
    {j : Nat} (hj : j < 3 ^ L) : bsc3 (blockAt (ifft3 (fft3 B (3 ^ a)) (3 ^ a)) j) L = blockAt B j := by
  rw [ifft3_fft3 hr hlen hB, blockAt_map (by omega), bsc3_map_rmul]

/-- The shape of a transform of `3^L` blocks of `m` elements (R94). -/
theorem fft3_shape_pow {m L : Nat} {B : List Block} (hB : B.length = 3 ^ L) (hm : AllLen m B) :
    (fft3 B m).length = 3 ^ L ∧ AllLen m (fft3 B m) := by
  rw [fft3_eq_fftLevels hB]
  exact fftLevels_shape m L hB hm

theorem fft3_block_length {m L : Nat} {B : List Block} (hB : B.length = 3 ^ L) (hm : AllLen m B) {q : Nat} (hq : q < 3 ^ L) :
    (blockAt (fft3 B m) q).length = m := by
  obtain ⟨hlen, hall⟩ := fft3_shape_pow hB hm
  exact hall.blockAt (by rwa [hlen])

/-- The forward transform of weighted blocks evaluates them at the weighted powers of `ζ`. -/
theorem blockVal_fft3_weighted {M L : Nat} (hr : 3 ^ L ≤ 3 * 3 ^ M) {A : List Block} (hA : A.length = 3 ^ L)
    (hAm : AllLen (3 ^ M) A) {w : WrapRing (3 ^ M) (ω : Ext)} {u : Nat → WrapRing (3 ^ M) (ω : Ext)}
    (hu : ∀ j, j < 3 ^ L → blockVal (wrapRoot (3 ^ M) ω) (blockAt A j) = u j * w ^ j) {k : Nat} (hk : k < 3 ^ L) :
    blockVal (wrapRoot (3 ^ M) ω) (blockAt (fft3 A (3 ^ M)) (rev3 L k)) =
      aeval (w * (wrapRoot (3 ^ M) ω ^ (3 * 3 ^ M / 3 ^ L)) ^ k) (seqPoly (3 ^ L) u) := by
  rw [fft3_eq_fftLevels hA, blockVal_fftLevels (wrapRoot_pow _ _) (three_pow_dvd hr) hA hAm hk, aeval_seqPoly]
  refine Finset.sum_congr rfl fun j hj => ?_
  rw [hu j (Finset.mem_range.1 hj), mul_pow, ← pow_mul _ k j, Nat.mul_comm k j, mul_assoc]
  rfl

/-- Where two lists of blocks have the weighted values `u` and `v`, and a third those of their product modulo `y^r − c`, the
products of the transforms of the two are the transform of the third. -/
theorem mul_fft3_eq_fft3 {M L : Nat} (hr : 3 ^ L ≤ 3 * 3 ^ M) {mul : Block → Block → Block}
    (hmul : ∀ p q : Block, p.length = 3 ^ M → q.length = 3 ^ M → mul p q = school p q) {A B D : List Block}
    (hA : A.length = 3 ^ L) (hB : B.length = 3 ^ L) (hD : D.length = 3 ^ L) (hAm : AllLen (3 ^ M) A) (hBm : AllLen (3 ^ M) B)
    (hDm : AllLen (3 ^ M) D) {w c : WrapRing (3 ^ M) (ω : Ext)} (hw : w ^ 3 ^ L = c) {u v : Nat → WrapRing (3 ^ M) (ω : Ext)}
    (hu : ∀ j, j < 3 ^ L → blockVal (wrapRoot (3 ^ M) ω) (blockAt A j) = u j * w ^ j)
    (hv : ∀ j, j < 3 ^ L → blockVal (wrapRoot (3 ^ M) ω) (blockAt B j) = v j * w ^ j)
    (huv : ∀ j, j < 3 ^ L → blockVal (wrapRoot (3 ^ M) ω) (blockAt D j) = wrapMul c (3 ^ L) u v j * w ^ j) :
    ((List.range (3 ^ L)).map fun q => mul (blockAt (fft3 A (3 ^ M)) q) (blockAt (fft3 B (3 ^ M)) q)) = fft3 D (3 ^ M) := by
  have hx := wrapRoot_pow (3 ^ M) (ω : Ext)
  have hone : (wrapRoot (3 ^ M) (ω : Ext) ^ (3 * 3 ^ M / 3 ^ L)) ^ 3 ^ L = 1 := by
    rw [← pow_mul, Nat.div_mul_cancel (three_pow_dvd hr), pow_three_mul_eq_one hx]
  refine blocks_ext (by rw [(fft3_shape_pow hD hDm).1]; simp) fun q hq => ?_
  have hq : q < 3 ^ L := by simpa using hq
  have hk := rev3_lt L q
  have hF := fft3_block_length hA hAm hq
  have hG := fft3_block_length hB hBm hq
  rw [blockAt_map_range hq, hmul _ _ hF hG]
  refine eq_of_blockVal_eq (by rw [school_length, hF]) (fft3_block_length hD hDm hq) ?_
  rw [blockVal_school hx hF hG, ← rev3_rev3 hq, blockVal_fft3_weighted hr hA hAm hu hk,
    blockVal_fft3_weighted hr hB hBm hv hk, blockVal_fft3_weighted hr hD hDm huv hk]
  refine (aeval_wrapMul ?_ u v).symm
  rw [mul_pow, hw, pow_right_comm, hone, one_pow, mul_one]
  rfl

/-- What comes out of a pass is the product modulo `y^r − c` under the weights that went in. -/
theorem blockVal_convolveBlocks {M L : Nat} (hr : 3 ^ L ≤ 3 * 3 ^ M) {mul : Block → Block → Block}
    (hmul : ∀ p q : Block, p.length = 3 ^ M → q.length = 3 ^ M → mul p q = school p q) {A B : List Block}
    (hA : A.length = 3 ^ L) (hB : B.length = 3 ^ L) (hAm : AllLen (3 ^ M) A) (hBm : AllLen (3 ^ M) B)
    {w c : WrapRing (3 ^ M) (ω : Ext)} (hw : w ^ 3 ^ L = c) {u v : Nat → WrapRing (3 ^ M) (ω : Ext)}
    (hu : ∀ j, j < 3 ^ L → blockVal (wrapRoot (3 ^ M) ω) (blockAt A j) = u j * w ^ j)
    (hv : ∀ j, j < 3 ^ L → blockVal (wrapRoot (3 ^ M) ω) (blockAt B j) = v j * w ^ j) {j : Nat} (hj : j < 3 ^ L) :
    (blockAt (convolveBlocks mul A B (3 ^ L) (3 ^ M)) j).length = 3 ^ M ∧
      blockVal (wrapRoot (3 ^ M) ω) (blockAt (convolveBlocks mul A B (3 ^ L) (3 ^ M)) j) = wrapMul c (3 ^ L) u v j * w ^ j := by
  choose block hlen hval using exists_blockVal_eq (m := 3 ^ M) (by positivity)
  obtain ⟨D, hD⟩ : ∃ D, D = (List.range (3 ^ L)).map fun j => block (wrapMul c (3 ^ L) u v j * w ^ j) := ⟨_, rfl⟩
  have hDlen : D.length = 3 ^ L := by simp [hD]
  have hDm : AllLen (3 ^ M) D := hD ▸ AllLen.map_range fun j _ => hlen _
  have hDat : ∀ j, j < 3 ^ L → blockAt D j = block (wrapMul c (3 ^ L) u v j * w ^ j) := fun j hj =>
    hD ▸ blockAt_map_range hj _
  have hDval : ∀ j, j < 3 ^ L → blockVal (wrapRoot (3 ^ M) ω) (blockAt D j) = wrapMul c (3 ^ L) u v j * w ^ j :=
    fun j hj => by rw [hDat j hj, hval]
  rw [convolveBlocks, blockAt_map_range hj, mul_fft3_eq_fft3 hr hmul hA hB hDlen hAm hBm hDm hw hu hv hDval, log3_pow,
    bsc3_ifft3_fft3 hr hDlen hDm hj]
  exact ⟨hDm.blockAt (by omega), hDval j hj⟩

end Sys2Proof.Machine


namespace Sys2Proof.Machine

open Polynomial
open scoped QuadraticAlgebra

/-! ### The two passes (R114, R115) -/

/-- The weighted blocks that a pass transforms. -/
def weightedBlocks (p : Block) (r m e : Nat) : List Block :=
  (List.range r).map fun j => twiddle (blockAt (blocksOf p r m) j) (j * e)

/-- A pass is a convolution of weighted blocks, and the removal of the weights. -/
theorem twisted_eq (mul : Block → Block → Block) (a b : Block) (r m g : Nat) : twisted mul a b r m g =
    (List.range r).map fun j => twiddle
      (blockAt (convolveBlocks mul (weightedBlocks a r m (g * m / r)) (weightedBlocks b r m (g * m / r)) r m) j)
      (3 * m - j * (g * m / r)) :=
  List.map_congr_left fun j hj => by
    rw [convolveBlocks, blockAt_map_range (List.mem_range.1 hj)]
    rfl

/-- The values of the blocks of a buffer (R33). -/
noncomputable def blockValues (m : Nat) (u : Nat → Ext) (j : Nat) : WrapRing m (ω : Ext) :=
  aeval (wrapRoot m ω) (seqPoly m fun i => u (j * m + i))

theorem weightedBlocks_spec {p : Block} {r m : Nat} (hp : p.length = r * m) (e : Nat) :
    (weightedBlocks p r m e).length = r ∧ AllLen m (weightedBlocks p r m e) ∧ ∀ j, j < r →
      blockVal (wrapRoot m ω) (blockAt (weightedBlocks p r m e) j) =
        blockValues m (coeffs p) j * (wrapRoot m (ω : Ext) ^ e) ^ j := by
  have hblock : ∀ j, j < r → (blockAt (blocksOf p r m) j).length = m := fun j hj =>
    (allLen_blocksOf hp).blockAt (by rwa [blocksOf_length])
  refine ⟨by simp [weightedBlocks], AllLen.map_range fun j hj => by rw [twiddle_length, hblock j hj], fun j hj => ?_⟩
  rw [weightedBlocks, blockAt_map_range hj, blockVal_twiddle (by rw [hblock j hj, wrapRoot_pow]), blockVal_blocksOf _ hp hj,
    ← pow_mul, Nat.mul_comm, mul_comm]
  rfl

/-- A pass gives the product modulo `y^r − ω^g` of the values of the blocks. -/
theorem blockVal_twisted {M L g : Nat} (hr : 3 ^ L ≤ 3 * 3 ^ M) (hdvd : 3 ^ L ∣ g * 3 ^ M) (hg : g ≤ 3)
    {mul : Block → Block → Block} (hmul : ∀ p q : Block, p.length = 3 ^ M → q.length = 3 ^ M → mul p q = school p q)
    {a b : Block} (ha : a.length = 3 ^ L * 3 ^ M) (hb : b.length = 3 ^ L * 3 ^ M) {j : Nat} (hj : j < 3 ^ L) :
    (blockAt (twisted mul a b (3 ^ L) (3 ^ M) g) j).length = 3 ^ M ∧
      blockVal (wrapRoot (3 ^ M) ω) (blockAt (twisted mul a b (3 ^ L) (3 ^ M) g) j) =
        wrapMul (algebraMap Ext _ (ω ^ g)) (3 ^ L) (blockValues (3 ^ M) (coeffs a)) (blockValues (3 ^ M) (coeffs b)) j := by
  have hx := wrapRoot_pow (3 ^ M) (ω : Ext)
  obtain ⟨e, he⟩ := hdvd
  have hdiv : g * 3 ^ M / 3 ^ L = e := by rw [he, Nat.mul_div_cancel_left _ (by positivity)]
  have hw : (wrapRoot (3 ^ M) (ω : Ext) ^ e) ^ 3 ^ L = algebraMap Ext _ (ω ^ g) := by
    rw [← pow_mul, Nat.mul_comm, ← he, Nat.mul_comm, pow_mul, hx, map_pow]
  have hje : j * e ≤ 3 * 3 ^ M := by
    calc j * e ≤ 3 ^ L * e := Nat.mul_le_mul_right e hj.le
      _ = g * 3 ^ M := he.symm
      _ ≤ 3 * 3 ^ M := Nat.mul_le_mul_right _ hg
  obtain ⟨hAlen, hAm, hAval⟩ := weightedBlocks_spec ha e
  obtain ⟨hBlen, hBm, hBval⟩ := weightedBlocks_spec hb e
  obtain ⟨hlen, hval⟩ := blockVal_convolveBlocks hr hmul hAlen hBlen hAm hBm hw hAval hBval hj
  rw [twisted_eq, blockAt_map_range hj, hdiv]
  refine ⟨by rw [twiddle_length, hlen], ?_⟩
  rw [blockVal_twiddle (by rw [hlen, hx]), hval, mul_left_comm, ← pow_mul, Nat.mul_comm e j, ← pow_add,
    Nat.sub_add_cancel hje, pow_three_mul_eq_one hx, mul_one]

/-! ### CRT and assembly (R116, R117) -/

/-- The CRT of two residues on coefficients. -/
theorem crt_at {p q : Block} {i : Nat} {lo hi : Ext} (hp : coeffs p i = lo + ω * hi) (hq : coeffs q i = lo + ω ^ 2 * hi) :
    crtLo (p.at i) (q.at i) = ofExt lo ∧ crtHi (p.at i) (q.at i) = ofExt hi := by
  have hp' : p.at i = radd (ofExt lo) (rmul omega1 (ofExt hi)) := by
    rw [← toExt_inj, toExt_radd, toExt_rmul, toExt_omega1, toExt_ofExt, toExt_ofExt]
    exact hp
  have hq' : q.at i = radd (ofExt lo) (rmul omega2 (ofExt hi)) := by
    rw [← toExt_inj, toExt_radd, toExt_rmul, toExt_omega2, toExt_ofExt, toExt_ofExt]
    exact hq
  rw [hp', hq']
  exact ⟨crtLo_residues _ _, crtHi_residues _ _⟩

section

variable {M L : Nat} {mul : Block → Block → Block} {a b : Block} {i j : Nat}

/-- The first pass leaves the residues `lo + ω·hi` (R114). -/
theorem coeffs_first_pass (hLM : L ≤ M) (hmul : ∀ p q : Block, p.length = 3 ^ M → q.length = 3 ^ M → mul p q = school p q)
    (ha : a.length = 3 ^ L * 3 ^ M) (hb : b.length = 3 ^ L * 3 ^ M) (hj : j < 3 ^ L) (hi : i < 3 ^ M) :
    coeffs (blockAt (twisted mul a b (3 ^ L) (3 ^ M) 1) j) i =
      (blockProduct ω (3 ^ L) (3 ^ M) (coeffs a) (coeffs b) j).coeff i +
        ω * (blockProduct ω (3 ^ L) (3 ^ M) (coeffs a) (coeffs b) j).coeff (i + 3 ^ M) := by
  have hr : 3 ^ L ≤ 3 * 3 ^ M := by rw [← pow_succ', three_pow_le_iff]; omega
  obtain ⟨hlen, hval⟩ := blockVal_twisted hr (dvd_mul_of_dvd_right (pow_dvd_pow 3 hLM) 1) (by decide) hmul ha hb hj
  rw [pow_one] at hval
  exact coeffs_eq_residue (c := ω) (u := coeffs a) (v := coeffs b) (RingHom.id Ext) hlen hj hval hi

/-- The second pass, on conjugates, leaves the residues `lo + ω²·hi` when conjugated back (R115). -/
theorem coeffs_second_pass (hLM : L ≤ M) (hmul : ∀ p q : Block, p.length = 3 ^ M → q.length = 3 ^ M → mul p q = school p q)
    (ha : a.length = 3 ^ L * 3 ^ M) (hb : b.length = 3 ^ L * 3 ^ M) (hj : j < 3 ^ L) (hi : i < 3 ^ M) :
    coeffs (blockAt ((twisted mul (bconj a) (bconj b) (3 ^ L) (3 ^ M) 2).map bconj) j) i =
      (blockProduct ω (3 ^ L) (3 ^ M) (coeffs a) (coeffs b) j).coeff i +
        ω ^ 2 * (blockProduct ω (3 ^ L) (3 ^ M) (coeffs a) (coeffs b) j).coeff (i + 3 ^ M) := by
  have hr : 3 ^ L ≤ 3 * 3 ^ M := by rw [← pow_succ', three_pow_le_iff]; omega
  obtain ⟨hlen, hval⟩ := blockVal_twisted hr (dvd_mul_of_dvd_right (pow_dvd_pow 3 hLM) 2) (by decide) hmul
    (by rwa [bconj_length] : (bconj a).length = _) (by rwa [bconj_length] : (bconj b).length = _) hj
  rw [← star_omega, funext (coeffs_bconj a), funext (coeffs_bconj b)] at hval
  have hres := coeffs_eq_residue (c := ω) (u := coeffs a) (v := coeffs b) (starRingEnd Ext) hlen hj hval hi
  rw [blockAt_map (by simpa [twisted] using hj), coeffs_bconj, hres, map_add, map_mul, starRingEnd_self_apply,
    starRingEnd_self_apply, starRingEnd_apply, star_omega]

/-- Coefficient `j·m + i` of the recursive case, in the ring (R117). -/
theorem coeffs_splitMul (mul : Block → Block → Block) (a b : Block) {r m : Nat} (hj : j < r) (hi : i < m) :
    coeffs (splitMul mul a b r m) (j * m + i) =
      toExt (crtLo ((blockAt (twisted mul a b r m 1) j).at i)
        ((blockAt ((twisted mul (bconj a) (bconj b) r m 2).map bconj) j).at i)) +
      if 0 < j then toExt (crtHi ((blockAt (twisted mul a b r m 1) (j - 1)).at i)
        ((blockAt ((twisted mul (bconj a) (bconj b) r m 2).map bconj) (j - 1)).at i))
      else ω * toExt (crtHi ((blockAt (twisted mul a b r m 1) (r - 1)).at i)
        ((blockAt ((twisted mul (bconj a) (bconj b) r m 2).map bconj) (r - 1)).at i)) := by
  rw [coeffs, splitMul, flatten_at (AllLen.map_range fun _ _ => by simp) (by simpa using hj) hi, blockAt_map_range hj,
    Block.at, List.getD_eq_getElem _ _ (by simpa using hi), List.getElem_map, List.getElem_range]
  split
  · rfl
  · obtain rfl : j = 0 := by omega
    rw [toExt_radd, toExt_rwpow, pow_one, mul_comm]

/-- The recursive case computes the base case's product where the multiplier it uses does. -/
theorem splitMul_eq_school (hLM : L ≤ M) (hmul : ∀ p q : Block, p.length = 3 ^ M → q.length = 3 ^ M → mul p q = school p q)
    (ha : a.length = 3 ^ L * 3 ^ M) (hb : b.length = 3 ^ L * 3 ^ M) :
    splitMul mul a b (3 ^ L) (3 ^ M) = school a b := by
  have hcrt := fun j (hj : j < 3 ^ L) i (hi : i < 3 ^ M) =>
    crt_at (coeffs_first_pass hLM hmul ha hb hj hi) (coeffs_second_pass hLM hmul ha hb hj hi)
  refine coeffs_inj (by rw [splitMul_length, school_length, ha]) fun k hk => ?_
  rw [splitMul_length] at hk
  obtain ⟨j, i, hj, hi, rfl⟩ : ∃ j i, j < 3 ^ L ∧ i < 3 ^ M ∧ k = j * 3 ^ M + i :=
    ⟨k / 3 ^ M, k % 3 ^ M, Nat.div_lt_of_lt_mul (by rwa [Nat.mul_comm]), Nat.mod_lt k (by positivity),
      (Nat.div_add_mod' k (3 ^ M)).symm⟩
  have hprev : j - 1 < 3 ^ L := Nat.lt_of_le_of_lt (Nat.sub_le j 1) hj
  have hlast : 3 ^ L - 1 < 3 ^ L := Nat.sub_lt (by positivity) Nat.one_pos
  rw [coeffs_school a b (by rwa [ha]), coeffs_splitMul mul a b hj hi, (hcrt j hj i hi).1, (hcrt _ hprev i hi).2,
    (hcrt _ hlast i hi).2, ha, ← assembled_eq_wrapMul hj hi]
  rfl

end

/-- The multiplier computes the base case's product, whatever the fuel: with none left it is the base case. -/
theorem mulmodFuel_eq_school (f : Nat) {k : Nat} {a b : Block} (ha : a.length = 3 ^ k) (hb : b.length = 3 ^ k) :
    mulmodFuel f a b = school a b := by
  induction f generalizing k a b with
  | zero => rfl
  | succ f ih =>
    rw [mulmodFuel]
    split
    · rfl
    · rw [ha, pow_div_mUp, mUp_pow]
      have hsplit : 3 ^ k = 3 ^ (k / 2) * 3 ^ ((k + 1) / 2) := by
        rw [← pow_add]
        congr 1
        omega
      exact splitMul_eq_school (by omega) (fun p q hp hq => ih hp hq) (by rw [ha, hsplit]) (by rw [hb, hsplit])

theorem mulmod_eq_school {k : Nat} {a b : Block} (ha : a.length = 3 ^ k) (hb : b.length = 3 ^ k) : mulmod a b = school a b :=
  mulmodFuel_eq_school _ ha hb

/-! ### The laws of the product (R119) -/

section

variable {k : Nat} {a b : Block}

theorem mulmod_length_pow (ha : a.length = 3 ^ k) (hb : b.length = 3 ^ k) : (mulmod a b).length = 3 ^ k := by
  rw [mulmod_eq_school ha hb, school_length, ha]

theorem coeffs_mulmod (ha : a.length = 3 ^ k) (hb : b.length = 3 ^ k) {i : Nat} (hi : i < 3 ^ k) :
    coeffs (mulmod a b) i = wrapMul ω (3 ^ k) (coeffs a) (coeffs b) i := by
  rw [mulmod_eq_school ha hb, coeffs_school a b (by rwa [ha]), ha]

/-- A block is the product if its coefficients are those of the product. -/
theorem mulmod_eq_of_coeffs (ha : a.length = 3 ^ k) (hb : b.length = 3 ^ k) {p : Block} (hp : p.length = 3 ^ k)
    (h : ∀ i, i < 3 ^ k → wrapMul ω (3 ^ k) (coeffs a) (coeffs b) i = coeffs p i) : mulmod a b = p := by
  refine coeffs_inj (by rw [mulmod_length_pow ha hb, hp]) fun i hi => ?_
  rw [mulmod_length_pow ha hb] at hi
  rw [coeffs_mulmod ha hb hi, h i hi]

/-- Coefficient `i` as the printed sums (R119). -/
theorem mulmod_at (ha : a.length = 3 ^ k) (hb : b.length = 3 ^ k) {i : Nat} (hi : i < 3 ^ k) : (mulmod a b).at i =
    radd (rsum ((List.range (i + 1)).map fun j => rmul (a.at j) (b.at (i - j))))
      (rmul omega1 (rsum ((List.range (3 ^ k - 1 - i)).map fun j => rmul (a.at (i + 1 + j)) (b.at (3 ^ k - 1 - j))))) := by
  rw [← toExt_inj, toExt_radd, toExt_rmul, toExt_rsum_range, toExt_rsum_range]
  simp only [toExt_rmul, toExt_omega1]
  exact (coeffs_mulmod ha hb hi).trans (wrapMul_eq_sum_add_sum ω hi _ _)

theorem coeffs_unit (n i : Nat) : coeffs (rone :: List.replicate n rzero) i = if i = 0 then 1 else 0 := by
  cases i with
  | zero => rfl
  | succ i =>
    rw [if_neg (Nat.succ_ne_zero i), ← toExt_rzero]
    refine congrArg toExt ?_
    by_cases hi : i < n
    · simp [Block.at, hi]
    · simp [Block.at, hi]

end

/-- Settles O14: the product is that of the base case, whose coefficients are `wrapMul` with `c = ω`. -/
theorem recursiveMultiplierEqualsSchoolbook : Obligations.RecursiveMultiplierEqualsSchoolbook := by
  intro k a b ha hb
  have hunit : (rone :: List.replicate (3 ^ k - 1) rzero).length = 3 ^ k := by
    rw [List.length_cons, List.length_replicate, Nat.sub_add_cancel (Nat.one_le_pow _ _ (by decide))]
  have hlen := mulmod_length_pow ha hb
  refine ⟨mulmod_eq_school ha hb, hlen, fun i hi => mulmod_at ha hb hi, ?_, ?_, fun a' ha' => ?_, fun c => ?_⟩
  · refine mulmod_eq_of_coeffs ha hb (mulmod_length_pow hb ha) fun i hi => ?_
    rw [coeffs_mulmod hb ha hi, wrapMul_comm]
  · refine mulmod_eq_of_coeffs ha hunit ha fun i hi => ?_
    rw [funext (coeffs_unit _), wrapMul_one ω hi]
  · have hlen' := mulmod_length_pow ha' hb
    refine mulmod_eq_of_coeffs (by simp [ha, ha']) hb (by simp [hlen, hlen']) fun i hi => ?_
    rw [funext (coeffs_badd (ha.trans ha'.symm)), wrapMul_add_left, coeffs_badd (hlen.trans hlen'.symm), coeffs_mulmod ha hb hi,
      coeffs_mulmod ha' hb hi]
  · refine mulmod_eq_of_coeffs (by simpa using ha) hb (by simpa using hlen) fun i hi => ?_
    rw [funext (coeffs_map_rmul c a), wrapMul_smul_left, coeffs_map_rmul, coeffs_mulmod ha hb hi]

end Sys2Proof.Machine

/-! ## O15 and O16: the driver and the public multiply

The driver works on words, as the constant elements of the ring. For `n = r·m` its blocks of the product have words as
coefficients, so one residue `lo + ω·hi` holds both halves as its two components, and the assembly is that of
`assembled_eq_wrapMul` with `c = 1`. The public multiply pads with so many zeros that nothing wraps round. -/

namespace Sys2Proof.Machine

open Polynomial
open scoped QuadraticAlgebra

/-! ### The driver (R131 to R135) -/

/-- An embedded word (R132). -/
theorem coeffs_map_remb (a : List Word) (i : Nat) : coeffs (a.map remb) i = algebraMap Word Ext (wordAt a i) := by
  by_cases hi : i < a.length
  · simp [coeffs, Block.at, wordAt, hi]
  · simp only [coeffs, Block.at, wordAt, List.getD_eq_getElem?_getD, List.getElem?_map, List.getElem?_eq_none (Nat.le_of_not_lt hi)]
    exact (map_zero _).symm

/-- An element by its two words. -/
theorem toExt_mk (lo hi : Word) : toExt ⟨lo, hi⟩ = algebraMap Word Ext lo + ω * algebraMap Word Ext hi := by
  rw [eq_radd_remb ⟨lo, hi⟩, toExt_radd, toExt_rmul, toExt_omega1, toExt_remb, toExt_remb]

/-- The driver's residues are a convolution of the blocks without weights. -/
theorem cconvResidues_eq (a b : List Word) (r m : Nat) : cconvResidues a b r m =
    convolveBlocks mulmod (blocksOf (a.map remb) r m) (blocksOf (b.map remb) r m) r m := rfl

section

variable {M L : Nat} {a b : List Word} {i j : Nat}

/-- Each residue holds both halves of a block of the product in its two components (R134). -/
theorem cconvResidues_at (hr : 3 ^ L ≤ 3 * 3 ^ M) (ha : a.length = 3 ^ L * 3 ^ M) (hb : b.length = 3 ^ L * 3 ^ M)
    (hj : j < 3 ^ L) (hi : i < 3 ^ M) : (blockAt (cconvResidues a b (3 ^ L) (3 ^ M)) j).at i =
      ⟨(blockProduct 1 (3 ^ L) (3 ^ M) (wordAt a) (wordAt b) j).coeff i,
        (blockProduct 1 (3 ^ L) (3 ^ M) (wordAt a) (wordAt b) j).coeff (i + 3 ^ M)⟩ := by
  have hvals : ∀ {p : List Word}, p.length = 3 ^ L * 3 ^ M → ∀ j, j < 3 ^ L →
      blockVal (wrapRoot (3 ^ M) (ω : Ext)) (blockAt (blocksOf (p.map remb) (3 ^ L) (3 ^ M)) j) =
        blockValues (3 ^ M) (fun i => algebraMap Word Ext (wordAt p i)) j * 1 ^ j := fun hp j hj => by
    rw [blockVal_blocksOf _ (by simpa using hp) hj, one_pow, mul_one, funext (coeffs_map_remb _)]
    rfl
  have hone : (1 : WrapRing (3 ^ M) (ω : Ext)) ^ 3 ^ L = algebraMap Ext _ (algebraMap Word Ext 1) := by
    rw [map_one, map_one, one_pow]
  obtain ⟨hlen, hval⟩ := blockVal_convolveBlocks hr (fun p q hp hq => mulmod_eq_school hp hq)
    (blocksOf_length _ _ _) (blocksOf_length _ _ _) (allLen_blocksOf (by simpa using ha)) (allLen_blocksOf (by simpa using hb))
    hone (hvals ha) (hvals hb) hj
  rw [one_pow, mul_one] at hval
  have hres := coeffs_eq_residue (c := 1) (u := wordAt a) (v := wordAt b) (algebraMap Word Ext) hlen hj hval hi
  rw [cconvResidues_eq]
  exact toExt_inj.1 (hres.trans (toExt_mk _ _).symm)

end

/-- A table written row by row. -/
theorem getD_flatten_rows {α : Type} (f : Nat → Nat → α) (d : α) {r m j i : Nat} (hj : j < r) (hi : i < m) :
    ((List.range r).map fun j => (List.range m).map fun i => f j i).flatten.getD (j * m + i) d = f j i := by
  induction r with
  | zero => exact absurd hj (Nat.not_lt_zero j)
  | succ r ih =>
    have hlen : ((List.range r).map fun j => (List.range m).map fun i => f j i).flatten.length = r * m := by
      simp [List.length_flatten, Function.comp_def]
    rw [List.range_succ, List.map_append, List.flatten_append]
    obtain hlt | rfl : j < r ∨ j = r := by omega
    · have hin : j * m + i < r * m := Nat.mul_comm m j ▸ Nat.mul_add_lt_mul_of_lt_of_lt hlt hi
      rw [List.getD_append _ _ _ _ (by omega), ih hlt]
    · rw [List.getD_append_right _ _ _ _ (by omega), hlen, Nat.add_sub_cancel_left]
      simp [hi]

/-- The block before `j` in the circle of `r` blocks (R135). -/
theorem circular_pred {r j : Nat} (hj : j < r) : (j + r - 1) % r = if 0 < j then j - 1 else r - 1 := by
  split
  · rw [show j + r - 1 = j - 1 + r by omega, Nat.add_mod_right, Nat.mod_eq_of_lt (by omega)]
  · rw [show j + r - 1 = r - 1 by omega, Nat.mod_eq_of_lt (by omega)]

section

variable {k : Nat} {a b : List Word}

theorem cconv_length_pow (ha : a.length = 3 ^ k) (b : List Word) : (cconv a b).length = 3 ^ k := by
  rw [cconv_length b (by rw [ha, isPow3_pow]), ha]

/-- The driver computes the product modulo `x^n − 1` (R131). -/
theorem wordAt_cconv (ha : a.length = 3 ^ k) (hb : b.length = 3 ^ k) {n : Nat} (hn : n < 3 ^ k) :
    wordAt (cconv a b) n = wrapMul 1 (3 ^ k) (wordAt a) (wordAt b) n := by
  have hsplit : 3 ^ k = 3 ^ (k - k / 2) * 3 ^ (k / 2) := by
    rw [← pow_add]
    congr 1
    omega
  have hr : 3 ^ (k - k / 2) ≤ 3 * 3 ^ (k / 2) := by
    rw [← pow_succ', three_pow_le_iff]
    omega
  have hres := fun j (hj : j < 3 ^ (k - k / 2)) i (hi : i < 3 ^ (k / 2)) =>
    cconvResidues_at hr (ha.trans hsplit) (hb.trans hsplit) hj hi
  rw [hsplit] at hn
  obtain ⟨j, i, hj, hi, rfl⟩ : ∃ j i, j < 3 ^ (k - k / 2) ∧ i < 3 ^ (k / 2) ∧ n = j * 3 ^ (k / 2) + i :=
    ⟨n / 3 ^ (k / 2), n % 3 ^ (k / 2), Nat.div_lt_of_lt_mul (by rwa [Nat.mul_comm]), Nat.mod_lt n (by positivity),
      (Nat.div_add_mod' n _).symm⟩
  have hpred : (j + 3 ^ (k - k / 2) - 1) % 3 ^ (k - k / 2) < 3 ^ (k - k / 2) := Nat.mod_lt _ (by positivity)
  rw [wordAt, cconv, ha, pow_div_mDn, mDn_pow, getD_flatten_rows _ _ hj hi]
  simp only [crtLo_rconj, crtHi_rconj, remb]
  rw [hres j hj i hi, hres _ hpred i hi, hsplit, ← assembled_eq_wrapMul hj hi, assembled, circular_pred hj, one_mul]
  split <;> rfl

/-! ### The laws of the convolution (R137) -/

theorem words_ext {p q : List Word} (hlen : p.length = q.length) (h : ∀ i, i < p.length → wordAt p i = wordAt q i) : p = q := by
  refine List.ext_getElem hlen fun i hi hi' => ?_
  simpa only [wordAt, List.getD_eq_getElem _ _ hi, List.getD_eq_getElem _ _ hi'] using h i hi

/-- A word sequence is the convolution if its words are those of the product. -/
theorem cconv_eq_of_wordAt (ha : a.length = 3 ^ k) (hb : b.length = 3 ^ k) {p : List Word} (hp : p.length = 3 ^ k)
    (h : ∀ i, i < 3 ^ k → wrapMul 1 (3 ^ k) (wordAt a) (wordAt b) i = wordAt p i) : cconv a b = p := by
  refine words_ext (by rw [cconv_length_pow ha, hp]) fun i hi => ?_
  rw [cconv_length_pow ha] at hi
  rw [wordAt_cconv ha hb hi, h i hi]

theorem wordAt_map_range {n i : Nat} (hi : i < n) (f : Nat → Word) : wordAt ((List.range n).map f) i = f i := by
  simp [wordAt, hi]

/-- A sum over `0, …, n − 1` in the model's form. -/
theorem wsum_range (n : Nat) (f : Nat → Word) : wsum ((List.range n).map f) = ∑ i ∈ Finset.range n, f i := rfl

/-- The printed cyclic sum is the product modulo `x^n − 1`. -/
theorem wordAt_cyclicSum {a b : List Word} {n i : Nat} (ha : a.length = n) (hi : i < n) :
    wordAt (cyclicSum a b) i = wrapMul 1 n (wordAt a) (wordAt b) i := by
  rw [cyclicSum, ha, wordAt_map_range hi, wsum_range, wrapMul_eq_sum _ hi]
  refine Finset.sum_congr rfl fun t ht => ?_
  have ht : t < n := Finset.mem_range.1 ht
  split
  · rw [show i + n - t = i - t + n by omega, Nat.add_mod_right, Nat.mod_eq_of_lt (by omega)]
  · rw [Nat.mod_eq_of_lt (by omega), one_mul]

theorem wordAt_zipWith_add {a a' : List Word} (h : a.length = a'.length) (i : Nat) :
    wordAt (List.zipWith (· + ·) a a') i = wordAt a i + wordAt a' i := by
  by_cases hi : i < a.length
  · have hi' : i < a'.length := by omega
    simp [wordAt, hi, hi']
  · have hi' : ¬ i < a'.length := by omega
    simp [wordAt, hi, hi']

theorem wordAt_map_mul (c : Word) (a : List Word) (i : Nat) : wordAt (a.map (c * ·)) i = c * wordAt a i := by
  by_cases hi : i < a.length
  · simp [wordAt, hi]
  · simp [wordAt, hi]

theorem wordAt_unit (n i : Nat) : wordAt (1 :: List.replicate n 0) i = if i = 0 then 1 else 0 := by
  cases i with
  | zero => rfl
  | succ i =>
    rw [if_neg (Nat.succ_ne_zero i)]
    by_cases hi : i < n
    · simp [wordAt, hi]
    · simp [wordAt, hi]

end

/-- Settles O15: the words of `cconv` are `wrapMul` with `c = 1`. -/
theorem driverComputesTheCyclicConvolution : Obligations.DriverComputesTheCyclicConvolution := by
  intro k a b ha hb
  have hunit : ((1 : Word) :: List.replicate (3 ^ k - 1) 0).length = 3 ^ k := by
    rw [List.length_cons, List.length_replicate, Nat.sub_add_cancel (Nat.one_le_pow _ _ (by decide))]
  have hlen := cconv_length_pow ha b
  refine ⟨?_, ?_, ?_, fun a' ha' => ?_, fun c => ?_⟩
  · refine cconv_eq_of_wordAt ha hb (by simp [cyclicSum, ha]) fun i hi => ?_
    rw [wordAt_cyclicSum ha hi]
  · refine cconv_eq_of_wordAt ha hb (cconv_length_pow hb a) fun i hi => ?_
    rw [wordAt_cconv hb ha hi, wrapMul_comm]
  · refine cconv_eq_of_wordAt ha hunit ha fun i hi => ?_
    rw [funext (wordAt_unit _), wrapMul_one 1 hi]
  · have hlen' := cconv_length_pow ha' b
    refine cconv_eq_of_wordAt (by simp [ha, ha']) hb (by simp [hlen, hlen']) fun i hi => ?_
    rw [funext (wordAt_zipWith_add (ha.trans ha'.symm)), wrapMul_add_left, wordAt_zipWith_add (hlen.trans hlen'.symm),
      wordAt_cconv ha hb hi, wordAt_cconv ha' hb hi]
  · refine cconv_eq_of_wordAt (by simpa using ha) hb (by simpa using hlen) fun i hi => ?_
    rw [funext (wordAt_map_mul c a), wrapMul_smul_left, wordAt_map_mul, wordAt_cconv ha hb hi]

/-! ### The public multiply (R140) -/

theorem wordAt_padTo (p : List Word) (s i : Nat) : wordAt (padTo p s) i = wordAt p i := by
  by_cases hi : i < p.length
  · rw [wordAt, padTo, List.getD_append _ _ _ _ hi, wordAt]
  · rw [wordAt, padTo, List.getD_append_right _ _ _ _ (Nat.le_of_not_lt hi)]
    by_cases hpad : i - p.length < s - p.length
    · simp [wordAt, hi, hpad]
    · simp [wordAt, hi, hpad]

theorem wordAt_of_ge {p : List Word} {i : Nat} (h : p.length ≤ i) : wordAt p i = 0 := by
  simp [wordAt, h]

section

variable {p q : List Word} {s : Nat}

/-- A product has no coefficient past the sum of the lengths. -/
theorem coeff_mul_words_of_ge {n : Nat} (hn : p.length + q.length ≤ n + 1) :
    (seqPoly s (wordAt p) * seqPoly s (wordAt q)).coeff n = 0 := by
  rw [coeff_mul_eq_sum]
  refine Finset.sum_eq_zero fun i hi => ?_
  have hi : i < n + 1 := Finset.mem_range.1 hi
  rw [coeff_seqPoly, coeff_seqPoly]
  obtain hp | hq : p.length ≤ i ∨ q.length ≤ n - i := by omega
  · rw [wordAt_of_ge hp, ite_self, zero_mul]
  · rw [wordAt_of_ge hq, ite_self, mul_zero]

/-- Where the padded size holds the whole product nothing wraps round. -/
theorem wordAt_cconv_padTo {k n : Nat} (hs : p.length + q.length ≤ 3 ^ k + 1) (hp : 1 ≤ p.length) (hq : 1 ≤ q.length)
    (hn : n < 3 ^ k) : wordAt (cconv (padTo p (3 ^ k)) (padTo q (3 ^ k))) n =
      (seqPoly (3 ^ k) (wordAt p) * seqPoly (3 ^ k) (wordAt q)).coeff n := by
  rw [wordAt_cconv (padTo_length (by omega)) (padTo_length (by omega)) hn, funext (wordAt_padTo p _), funext (wordAt_padTo q _),
    wrapMul, coeff_mul_words_of_ge (n := n + 3 ^ k) (by omega), mul_zero, add_zero]

end

/-- Settles O16: the padded convolution holds the coefficients of the product, which end before `lenA + lenB − 1`. -/
theorem publicMultiplyGivesTheTrueProduct : Obligations.PublicMultiplyGivesTheTrueProduct := by
  intro p q hp hq
  have hsize := le_pow3Ceil (p.length + q.length - 1)
  obtain ⟨k, hk⟩ : ∃ k, pow3Ceil (p.length + q.length - 1) = 3 ^ k := ⟨_, rfl⟩
  have hpad : (padTo p (3 ^ k)).length = 3 ^ k := padTo_length (by omega)
  have hlen : (pmul p q).length = p.length + q.length - 1 := pmul_length (by omega)
  have hpmul : pmul p q = (cconv (padTo p (3 ^ k)) (padTo q (3 ^ k))).take (p.length + q.length - 1) := by rw [pmul, hk]
  rw [hk] at hsize ⊢
  refine ⟨hpmul, words_ext (by rw [hlen]; simp [polySum]) fun n hn => ?_, fun n hn => ?_⟩
  · rw [hlen] at hn
    have htake : wordAt (pmul p q) n = wordAt (cconv (padTo p (3 ^ k)) (padTo q (3 ^ k))) n := by
      simp [hpmul, wordAt, List.getD_eq_getElem?_getD, hn]
    rw [htake, wordAt_cconv_padTo (by omega) hp hq (by omega), coeff_mul_seqPoly (by omega), polySum, wordAt_map_range hn,
      wsum_range]
  · obtain hlt | hge := Nat.lt_or_ge n (3 ^ k)
    · exact (wordAt_cconv_padTo (by omega) hp hq hlt).trans (coeff_mul_words_of_ge (by omega))
    · exact wordAt_of_ge (by rw [cconv_length_pow hpad]; exact hge)

end Sys2Proof.Machine
